-- ==== Sys2Proof/Word.lean ====
section
/-! DEFINITION. The word types of the machine and the number type of the simulation loop. -/

namespace Sys2Proof

/-- A register, an address or a data word: 32 bits (spec 00 R9 `XLEN`, R10). -/
abbrev Word := BitVec 32

/-- One instruction halfword (spec 30 R66). -/
abbrev Half := BitVec 16

/-- One byte of memory (spec 20 R44). -/
abbrev Byte := BitVec 8

/-- A value of `Num` (spec 49 R209), written as a rational: the value itself where `Num` is the exact rationals, the spec's default,
and the code of the value where `Num` is another type (notes/assumptions/11.md). Which type it is, is `Config.NumType`. -/
abbrev Quantity := Rat

end Sys2Proof
end

