-- ==== Sys2Proof/Config.lean ====
section
/-! DEFINITION. The implementation parameters of spec 00 R9: the fixed ones as constants, the OPEN ones as the fields of
`Params`, which State carries as data so that every statement holds for every value of them. -/

namespace Sys2Proof.Config

/-- `ROM_BASE` (spec 00 R9, 20 R45). -/
def romBase : Nat := 0x00000000

/-- `RAM_BASE` (spec 00 R9, 20 R46). -/
def ramBase : Nat := 0x20000000

/-- `RESET_VECTOR_ADDR` (spec 00 R9, 70 R250). -/
def resetVectorAddr : Word := 0x00000004#32

/-- `RESET_LOADS_SP`, false for this hardware (spec 00 R9). -/
def resetLoadsSp : Bool := false

/-- `EXIT_MASK` (spec 00 R9, 30 R80). -/
def exitMask : Half := 0xFF00#16

/-- `EXIT_MATCH` (spec 00 R9, 30 R80): every BKPT. -/
def exitMatch : Half := 0xBE00#16

/-- `NO_PROGRESS_LIMIT` (spec 00 R9, 49 R217). -/
def noProgressLimit : Nat := 5

/-- `Num`, the OPEN type of energies, times and voltages (spec 00 R9, 49 R209): the exact rationals by default, or any other number
type. Its operations are those of Machine/Num.lean. -/
inductive NumType
  | rational
  /-- Number type `k` of those that are not the rationals. -/
  | other (k : Nat)
deriving DecidableEq, Repr

/-! The operations of number type `k`, on codes. They are free: no body, so that a claim holds for every number type
(DESIGN CHOICE, safe, notes/assumptions/11.md). -/

/-- The sum in number type `k`. -/
opaque otherAdd (k : Nat) (a b : Quantity) : Quantity

/-- The difference in number type `k`. -/
opaque otherSub (k : Nat) (a b : Quantity) : Quantity

/-- The product in number type `k`. -/
opaque otherMul (k : Nat) (a b : Quantity) : Quantity

/-- The quotient in number type `k`. -/
opaque otherDiv (k : Nat) (a b : Quantity) : Quantity

/-- The order of number type `k`. -/
opaque otherLe (k : Nat) (a b : Quantity) : Bool

/-- A natural number in number type `k`. -/
opaque otherOfNat (k : Nat) (n : Nat) : Quantity

/-- When the loop calls `battery()` for the handle it uses (spec 49 R205); the spec leaves it open.
DESIGN CHOICE (unsafe, notes/assumptions/15.md): one of these two, and every statement is about both. -/
inductive HandleUse
  /-- Once, when the loop is initialized. -/
  | once
  /-- Also at every later use of `battery` in the pseudocode. -/
  | everyUse
deriving DecidableEq, Repr

/-- What a PUSH at SP = 0 does where the data region ends at 2^32, on which rules of the spec disagree (44 R157, 70 R256 against 20 R56,
R59, 60 R231); everywhere else it faults by both.
DESIGN CHOICE (safe, notes/assumptions/16.md): both are in the model, and every statement is about both. -/
inductive PushAtZero
  /-- It stores its words: the pseudocode of 44 R157 with 20 R56, and no other check (20 R59, 60 R231). -/
  | stores
  /-- It raises MemoryFault: the Faults line of 44 R157, 70 R256. -/
  | faults
deriving DecidableEq, Repr

/-- The OPEN parameters of spec 00 R9 that are numbers, truth values or the number type. They are constant during a run.
The OPEN collaborators are data of their own in Machine/State.lean. -/
structure Params where
  /-- `ROM_SIZE`, a positive multiple of 4 (spec 20 R47). -/
  romSize : Nat
  /-- `RAM_SIZE`, a positive multiple of 4 (spec 20 R47). -/
  ramSize : Nat
  /-- `SYSTEM_EXT` (spec 30 R79). -/
  systemExt : Bool
  /-- `IDLE_TICK_CYCLES` (spec 49 R219). -/
  idleTickCycles : Nat
  /-- `ALWAYS_HARVEST` (spec 49 R220). -/
  alwaysHarvest : Bool
  /-- `Num` (spec 49 R209). -/
  num : NumType
  /-- The model's own parameter, not one of R9: when the loop calls `battery()` (notes/assumptions/15.md). -/
  handle : HandleUse
  /-- The model's own parameter, not one of R9: a PUSH at SP = 0 under a data region that ends at 2^32 (notes/assumptions/16.md). -/
  pushAtZero : PushAtZero
deriving DecidableEq, Repr

/-- What spec 20 R47 requires of the region sizes. -/
abbrev Params.legal (p : Params) : Prop :=
  0 < p.romSize ∧ p.romSize % 4 = 0 ∧ p.romSize ≤ ramBase ∧
    0 < p.ramSize ∧ p.ramSize % 4 = 0 ∧ ramBase + p.ramSize ≤ 2 ^ 32

/-- The parameter values of State.reset: the defaults of spec 00 R9 where it gives one, and for the two region sizes
the values the vectors of spec 95 use; the handle is got once; `stores`, which at this size is no different from `faults`.
DESIGN CHOICE (unsafe for a statement about State.reset only, notes/assumptions/2.md): the two sizes are OPEN, the handle is left open
(notes/assumptions/15.md). -/
def Params.atReset : Params :=
  { romSize := 0x1000, ramSize := 0x1000, systemExt := false, idleTickCycles := 1, alwaysHarvest := false, num := .rational,
    handle := .once, pushAtZero := .stores }

end Sys2Proof.Config
end

