-- ==== Sys2Proof/Syntax.lean ====
section
/-! DEFINITION. The instruction set as syntax: one constructor of `Instr` per row of spec/opcode_table.json, its arguments the
row's fields. -/

namespace Sys2Proof

/-- A 3-bit register field: r0 to r7 (spec 30 R68, R71). -/
abbrev LowReg := Fin 8

/-- A 4-bit register field: r0 to r15 (spec 30 R68, R71). -/
abbrev Reg := Fin 16

/-- The conditions of B<c> (spec 30 R72); 1110 and 1111 select UDF and SVC and are no conditions. -/
inductive Cond
  | eq | ne | cs | cc | mi | pl | vs | vc | hi | ls | ge | lt | gt | le
deriving DecidableEq, Repr

/-- The special registers of MRS and MSR (spec 10 R37); every other SYSm number is refused. -/
inductive SysReg
  | apsr | iapsr | eapsr | xpsr | ipsr | epsr | iepsr | msp | primask | control
deriving DecidableEq, Repr

/-- One constructor per row of spec/opcode_table.json. -/
inductive Instr
  -- spec/41_shift_add_sub_imm.md
  /-- `LSLS <Rd>, <Rm>, #<imm5>` (row LSLS_imm, R108). -/
  | lslsImm (rd rm : LowReg) (imm5 : BitVec 5)
  /-- `LSRS <Rd>, <Rm>, #<imm5>` (row LSRS_imm, R109). -/
  | lsrsImm (rd rm : LowReg) (imm5 : BitVec 5)
  /-- `ASRS <Rd>, <Rm>, #<imm5>` (row ASRS_imm, R110). -/
  | asrsImm (rd rm : LowReg) (imm5 : BitVec 5)
  /-- `ADDS <Rd>, <Rn>, <Rm>` (row ADDS_reg, R111). -/
  | addsReg (rd rn rm : LowReg)
  /-- `SUBS <Rd>, <Rn>, <Rm>` (row SUBS_reg, R112). -/
  | subsReg (rd rn rm : LowReg)
  /-- `ADDS <Rd>, <Rn>, #<imm3>` (row ADDS_imm3, R113). -/
  | addsImm3 (rd rn : LowReg) (imm3 : BitVec 3)
  /-- `SUBS <Rd>, <Rn>, #<imm3>` (row SUBS_imm3, R114). -/
  | subsImm3 (rd rn : LowReg) (imm3 : BitVec 3)
  /-- `MOVS <Rd>, #<imm8>` (row MOVS_imm, R115). -/
  | movsImm (rd : LowReg) (imm8 : BitVec 8)
  /-- `CMP <Rn>, #<imm8>` (row CMP_imm, R116). -/
  | cmpImm (rn : LowReg) (imm8 : BitVec 8)
  /-- `ADDS <Rdn>, #<imm8>` (row ADDS_imm8, R117). -/
  | addsImm8 (rdn : LowReg) (imm8 : BitVec 8)
  /-- `SUBS <Rdn>, #<imm8>` (row SUBS_imm8, R118). -/
  | subsImm8 (rdn : LowReg) (imm8 : BitVec 8)
  -- spec/42_data_processing.md
  /-- `ANDS <Rdn>, <Rm>` (row ANDS, R119). -/
  | ands (rdn rm : LowReg)
  /-- `EORS <Rdn>, <Rm>` (row EORS, R120). -/
  | eors (rdn rm : LowReg)
  /-- `LSLS <Rdn>, <Rm>` (row LSLS_reg, R125). -/
  | lslsReg (rdn rm : LowReg)
  /-- `LSRS <Rdn>, <Rm>` (row LSRS_reg, R126). -/
  | lsrsReg (rdn rm : LowReg)
  /-- `ASRS <Rdn>, <Rm>` (row ASRS_reg, R127). -/
  | asrsReg (rdn rm : LowReg)
  /-- `ADCS <Rdn>, <Rm>` (row ADCS, R129). -/
  | adcs (rdn rm : LowReg)
  /-- `SBCS <Rdn>, <Rm>` (row SBCS, R130). -/
  | sbcs (rdn rm : LowReg)
  /-- `RORS <Rdn>, <Rm>` (row RORS, R128). -/
  | rors (rdn rm : LowReg)
  /-- `TST <Rn>, <Rm>` (row TST, R124). -/
  | tst (rn rm : LowReg)
  /-- `RSBS <Rd>, <Rn>, #0` (row RSBS, R131). -/
  | rsbs (rd rn : LowReg)
  /-- `CMP <Rn>, <Rm>` (row CMP_reg, R132). -/
  | cmpReg (rn rm : LowReg)
  /-- `CMN <Rn>, <Rm>` (row CMN, R133). -/
  | cmn (rn rm : LowReg)
  /-- `ORRS <Rdn>, <Rm>` (row ORRS, R121). -/
  | orrs (rdn rm : LowReg)
  /-- `MULS <Rdm>, <Rn>, <Rdm>` (row MULS, R134). -/
  | muls (rdm rn : LowReg)
  /-- `BICS <Rdn>, <Rm>` (row BICS, R122). -/
  | bics (rdn rm : LowReg)
  /-- `MVNS <Rd>, <Rm>` (row MVNS, R123). -/
  | mvns (rd rm : LowReg)
  /-- `ADD <Rdn>, <Rm>` (row ADD_hi, R135). -/
  | addHi (rdn rm : Reg)
  /-- `CMP <Rn>, <Rm>` (row CMP_hi, R136). -/
  | cmpHi (rn rm : Reg)
  /-- `MOV <Rd>, <Rm>` (row MOV_hi, R137). -/
  | movHi (rd rm : Reg)
  -- spec/43_load_store.md
  /-- `LDR <Rt>, [PC, #<imm8*4>]` (row LDR_lit, R138). -/
  | ldrLit (rt : LowReg) (imm8 : BitVec 8)
  /-- `STR <Rt>, [<Rn>, <Rm>]` (row STR_reg, R139). -/
  | strReg (rt rn rm : LowReg)
  /-- `STRH <Rt>, [<Rn>, <Rm>]` (row STRH_reg, R140). -/
  | strhReg (rt rn rm : LowReg)
  /-- `STRB <Rt>, [<Rn>, <Rm>]` (row STRB_reg, R141). -/
  | strbReg (rt rn rm : LowReg)
  /-- `LDRSB <Rt>, [<Rn>, <Rm>]` (row LDRSB_reg, R142). -/
  | ldrsbReg (rt rn rm : LowReg)
  /-- `LDR <Rt>, [<Rn>, <Rm>]` (row LDR_reg, R143). -/
  | ldrReg (rt rn rm : LowReg)
  /-- `LDRH <Rt>, [<Rn>, <Rm>]` (row LDRH_reg, R144). -/
  | ldrhReg (rt rn rm : LowReg)
  /-- `LDRB <Rt>, [<Rn>, <Rm>]` (row LDRB_reg, R145). -/
  | ldrbReg (rt rn rm : LowReg)
  /-- `LDRSH <Rt>, [<Rn>, <Rm>]` (row LDRSH_reg, R146). -/
  | ldrshReg (rt rn rm : LowReg)
  /-- `STR <Rt>, [<Rn>, #<imm5*4>]` (row STR_imm, R147). -/
  | strImm (rt rn : LowReg) (imm5 : BitVec 5)
  /-- `LDR <Rt>, [<Rn>, #<imm5*4>]` (row LDR_imm, R148). -/
  | ldrImm (rt rn : LowReg) (imm5 : BitVec 5)
  /-- `STRB <Rt>, [<Rn>, #<imm5>]` (row STRB_imm, R149). -/
  | strbImm (rt rn : LowReg) (imm5 : BitVec 5)
  /-- `LDRB <Rt>, [<Rn>, #<imm5>]` (row LDRB_imm, R150). -/
  | ldrbImm (rt rn : LowReg) (imm5 : BitVec 5)
  /-- `STRH <Rt>, [<Rn>, #<imm5*2>]` (row STRH_imm, R151). -/
  | strhImm (rt rn : LowReg) (imm5 : BitVec 5)
  /-- `LDRH <Rt>, [<Rn>, #<imm5*2>]` (row LDRH_imm, R152). -/
  | ldrhImm (rt rn : LowReg) (imm5 : BitVec 5)
  /-- `STR <Rt>, [SP, #<imm8*4>]` (row STR_sp, R153). -/
  | strSp (rt : LowReg) (imm8 : BitVec 8)
  /-- `LDR <Rt>, [SP, #<imm8*4>]` (row LDR_sp, R154). -/
  | ldrSp (rt : LowReg) (imm8 : BitVec 8)
  -- spec/44_load_store_multiple.md
  /-- `STM <Rn>!, {<registers>}` (row STM, R155). -/
  | stm (rn : LowReg) (list : BitVec 8)
  /-- `LDM <Rn>{!}, {<registers>}` (row LDM, R156). -/
  | ldm (rn : LowReg) (list : BitVec 8)
  /-- `PUSH {<registers>}` (row PUSH, R157). -/
  | push (m : Bool) (list : BitVec 8)
  /-- `POP {<registers>}` (row POP, R158). -/
  | pop (p : Bool) (list : BitVec 8)
  -- spec/45_branch.md
  /-- `B<c> <label>` (row B_cond, R159). -/
  | bCond (cond : Cond) (imm8 : BitVec 8)
  /-- `B <label>` (row B, R160). -/
  | b (imm11 : BitVec 11)
  /-- `BL <label>` (row BL, R161). -/
  | bl (s : BitVec 1) (imm10 : BitVec 10) (j1 j2 : BitVec 1) (imm11 : BitVec 11)
  /-- `BX <Rm>` (row BX, R162). -/
  | bx (rm : Reg)
  /-- `BLX <Rm>` (row BLX, R163). -/
  | blx (rm : Reg)
  -- spec/46_misc_system.md
  /-- `ADR <Rd>, <label>` (row ADR, R164). -/
  | adr (rd : LowReg) (imm8 : BitVec 8)
  /-- `ADD <Rd>, SP, #<imm8*4>` (row ADD_sp_rd, R165). -/
  | addSpRd (rd : LowReg) (imm8 : BitVec 8)
  /-- `ADD SP, SP, #<imm7*4>` (row ADD_sp_imm7, R166). -/
  | addSpImm7 (imm7 : BitVec 7)
  /-- `SUB SP, SP, #<imm7*4>` (row SUB_sp_imm7, R167). -/
  | subSpImm7 (imm7 : BitVec 7)
  /-- `SXTH <Rd>, <Rm>` (row SXTH, R168). -/
  | sxth (rd rm : LowReg)
  /-- `SXTB <Rd>, <Rm>` (row SXTB, R169). -/
  | sxtb (rd rm : LowReg)
  /-- `UXTH <Rd>, <Rm>` (row UXTH, R170). -/
  | uxth (rd rm : LowReg)
  /-- `UXTB <Rd>, <Rm>` (row UXTB, R171). -/
  | uxtb (rd rm : LowReg)
  /-- `REV <Rd>, <Rm>` (row REV, R172). -/
  | rev (rd rm : LowReg)
  /-- `REV16 <Rd>, <Rm>` (row REV16, R173). -/
  | rev16 (rd rm : LowReg)
  /-- `REVSH <Rd>, <Rm>` (row REVSH, R174). -/
  | revsh (rd rm : LowReg)
  /-- `BKPT #<imm8>` (row BKPT, R175). -/
  | bkpt (imm8 : BitVec 8)
  /-- `NOP` (row NOP, R176). -/
  | nop
  /-- `YIELD` (row YIELD, R177). -/
  | yield
  /-- `WFE` (row WFE, R178). -/
  | wfe
  /-- `WFI` (row WFI, R179). -/
  | wfi
  /-- `SEV` (row SEV, R180). -/
  | sev
  /-- `CPSIE i` (row CPSIE, R181). -/
  | cpsie
  /-- `CPSID i` (row CPSID, R182). -/
  | cpsid
  /-- `MRS <Rd>, <spec_reg>` (row MRS, R183). -/
  | mrs (rd : Reg) (sysm : SysReg)
  /-- `MSR <spec_reg>, <Rn>` (row MSR, R184). -/
  | msr (sysm : SysReg) (rn : Reg)
  /-- `DSB SY` (row DSB, R185). -/
  | dsb
  /-- `DMB SY` (row DMB, R186). -/
  | dmb
  /-- `ISB SY` (row ISB, R187). -/
  | isb
  /-- `SVC #<imm8>` (row SVC, R188). -/
  | svc (imm8 : BitVec 8)
  /-- `UDF #<imm8>` (row UDF, R189). -/
  | udf (imm8 : BitVec 8)
  /-- `UDF.W #<imm16>` (row UDF_W, R190). -/
  | udfW (imm4 : BitVec 4) (imm12 : BitVec 12)
deriving DecidableEq, Repr

end Sys2Proof
end

