-- ==== Sys2Proof/Machine/State.lean ====
section
/-! DEFINITION. The state of the machine as plain data (spec 10, 20, 48, 49), the reasons a step can stop, and the state
after reset. -/

namespace Sys2Proof.Machine

/-! ### The CPU State record (spec 10 R41) -/

/-- The processor mode (spec 10 R35). -/
inductive Mode
  | thread
  | handler
deriving DecidableEq, Repr

/-- The four status flags (spec 10 R31). -/
structure Flags where
  n : Bool
  z : Bool
  c : Bool
  v : Bool
deriving DecidableEq, Repr

/-- The CPU State record, exactly what the checkpoint engine copies (spec 10 R41, 48 R193). -/
structure Cpu where
  /-- r0 to r14 (spec 10 R21). -/
  regs : Vector Word 15
  /-- `pc_reg`, the stored register 15 (spec 10 R26). -/
  pcReg : Word
  flags : Flags
  /-- PM (spec 10 R34). -/
  primask : Bool
  mode : Mode
  /-- The inert exception-pending mask (spec 10 R36). -/
  pending : Word
deriving DecidableEq, Repr

/-- Memory as the bytes that differ from 0, by rising address (notes/assumptions/4.md). -/
abbrev Memory := List Host.Cell

/-- What an address that is not listed reads as.
DESIGN CHOICE (notes/assumptions/4.md): the OPEN contents ROM_FILL and RAM_INIT are the bytes a state lists. -/
def Memory.unlisted : Byte := 0#8

/-- The one canonical form of a memory: addresses strictly rising, no entry that equals an unlisted byte. -/
abbrev Memory.wf (m : Memory) : Prop :=
  m.Pairwise (fun a b => a.1 < b.1) ∧ ∀ c ∈ m, c.2 ≠ Memory.unlisted

/-! ### The checkpoint scheme (spec 48, 49 R205), as plain data -/

/-- A field of the CPU State (spec 10 R41). -/
inductive CpuField
  | x (i : Fin 15)
  | pcReg | n | z | c | v | primask | mode | pending
deriving DecidableEq, Repr

/-- A field of a period record (spec 49 R211). -/
inductive PeriodField
  | cycleStart | instructions | instructionCycles | backups | backupCycles | restoreCycles
  | energyInstructions | energyBackup | energyRestore | fpEnergy | fpCycles | energyTotal | progress | estimatedProgress
deriving DecidableEq, Repr

/-- What a method of a scheme can read: the scheme's own private state and battery (spec 48 R192), and its arguments
(spec 49 R205, R213). -/
inductive Item
  /-- Cell `i` of the private state. -/
  | memo (i : Nat)
  /-- 1 if the snapshot slot is full, else 0. -/
  | slotFull
  | stored | capacitance
  /-- The cycles given to `execute_instruction`. -/
  | cycles
  | cpu (f : CpuField)
  | elapsed | time
  /-- 1 if the power state is Active, else 0. -/
  | active
  | energyHarvested | finalEnergyStored
  /-- The number of period records. -/
  | periods
  /-- A field of the period record `k` before the last one; for `estimate_progress` record 0 is its argument. -/
  | period (k : Nat) (f : PeriodField)
deriving DecidableEq, Repr

/-- The expressions a method can be made of. A truth value is 1 or 0, and every value other than 0 is true.
DESIGN CHOICE (safe, notes/assumptions/3.md): the language is the model's own; the spec has no policy of its own (00 R8). -/
inductive Expr
  | const (q : Quantity)
  | item (i : Item)
  | add (a b : Expr)
  | sub (a b : Expr)
  | mul (a b : Expr)
  | div (a b : Expr)
  /-- The remainder of the division that rounds down. -/
  | mod (a b : Expr)
  /-- `a <= b`. -/
  | le (a b : Expr)
  /-- `c ? a : b`. -/
  | cond (c a b : Expr)
deriving DecidableEq, Repr

/-- A method of a scheme. Each uses the components that its row of the table of spec 49 R205 names. -/
structure Method where
  /-- The result of `is_active` and `will_backup`. -/
  answer : Expr := .const 0
  /-- The cycles that `backup` and `restore` return. -/
  cycles : Expr := .const 0
  /-- The energy that `execute_instruction`, `backup` and `restore` ask of the battery. -/
  energy : Expr := .const 0
  /-- The result of `estimate_progress`. -/
  value : Expr := .const 0
  /-- The new private state: its first cells; the cells after these keep their values. -/
  memo : List Expr := []
deriving DecidableEq, Repr

/-- A scheme as the record of its methods (spec 48 R204). -/
structure Program where
  isActive : Method := {}
  executeInstruction : Method := {}
  willBackup : Method := {}
  backup : Method := {}
  restore : Method := {}
  estimateProgress : Method := {}
  /-- Its result is `Scheme.clockFrequency`, so that it is constant (spec 49 R205); only its `memo` is used. -/
  clockFrequency : Method := {}
  /-- Its result is the battery handle; only its `memo` is used. -/
  battery : Method := {}
deriving DecidableEq, Repr

/-- The variants of a scheme (spec 48 R204). -/
inductive Policy
  /-- The methods are written out. -/
  | program (p : Program)
  /-- Scheme `k` of those whose methods are free functions of the private state and the arguments. -/
  | other (k : Nat)
deriving DecidableEq, Repr

/-- The scheme of spec 95 vector LP6: always active, never backs up, removes no energy; the zero costs are those of the reference
scheme (spec 48 R202). -/
def Policy.alwaysOn : Policy := .program { isActive := { answer := .const 1 } }

/-- The checkpoint scheme: its snapshot slot, its methods, its private state and its clock frequency. -/
structure Scheme where
  /-- The snapshot slot (spec 48 R191). -/
  slot : Option Cpu
  policy : Policy
  /-- The rest of the private state (spec 48 R204), as cells. -/
  memo : List Quantity
  /-- What `clock_frequency()` returns, constant over a run (spec 49 R205). -/
  clockFrequency : Quantity
deriving DecidableEq, Repr

/-! ### Battery, voltage trace and charging rate (spec 49 R206 to R208), as plain data -/

/-- How much a battery accepts of what it is offered; its charge equations are out of scope (spec 49 R206). -/
inductive Charging
  /-- All of it. -/
  | unlimited
  /-- What is missing to a capacity (spec 95 vectors LP1 and P5). -/
  | capacity (most : Quantity)
  /-- Battery `k` of those whose acceptance is free. -/
  | other (k : Nat)
deriving DecidableEq, Repr

/-- `capacitance()` of a battery (spec 49 R206). -/
inductive Capacitor
  /-- The same value at every call. -/
  | constant (value : Quantity)
  /-- Capacitor `k` of those whose value is free. -/
  | other (k : Nat)
deriving DecidableEq, Repr

/-- The battery (spec 49 R206). -/
structure Battery where
  /-- `energy_stored()`. -/
  stored : Quantity
  capacitor : Capacitor
  charging : Charging
  /-- The number of harvests and draws so far; the model's own field, which lets a free acceptance and a free capacitance differ from one
  call to the next (notes/assumptions/3.md). -/
  events : Nat
deriving DecidableEq, Repr

/-- A function of a collaborator (spec 49 R207, R208): a table and a default, or function `k` of those whose values are free
(notes/assumptions/3.md). -/
inductive Curve (α : Type)
  | table (entries : List (α × Quantity)) (elsewhere : Quantity)
  | other (k : Nat)
deriving DecidableEq, Repr

/-- The environment: the voltage trace (spec 49 R207) and `charging_rate_fn` (spec 49 R208). -/
structure Environment where
  /-- `sample_period()`. -/
  samplePeriod : Quantity
  /-- `get_voltage`, of the time. -/
  voltage : Curve Quantity
  /-- `charging_rate_fn`, of voltage and capacitance, in energy per cycle. -/
  rate : Curve (Quantity × Quantity)
deriving DecidableEq, Repr

/-! ### The loop state and statistics (spec 49 R210 to R212) -/

/-- The loop's two states (spec 49 R210). -/
inductive Power
  | inactive
  | active
deriving DecidableEq, Repr

/-- A period record (spec 49 R211). -/
structure Period where
  cycleStart : Nat
  instructions : Nat
  instructionCycles : Nat
  backups : Nat
  backupCycles : Nat
  restoreCycles : Nat
  energyInstructions : Quantity
  energyBackup : Quantity
  energyRestore : Quantity
  fpEnergy : Quantity
  fpCycles : Nat
  energyTotal : Quantity
  progress : Option Quantity
  estimatedProgress : Option Quantity
deriving DecidableEq, Repr

/-- A new period record (spec 49 R211; what is set later is none, notes/assumptions/12.md). -/
def Period.new : Period :=
  { cycleStart := 0, instructions := 0, instructionCycles := 0, backups := 0, backupCycles := 0, restoreCycles := 0,
    energyInstructions := 0, energyBackup := 0, energyRestore := 0, fpEnergy := 0, fpCycles := 0, energyTotal := 0,
    progress := none, estimatedProgress := none }

/-- The totals record (spec 49 R212). -/
structure Totals where
  energyHarvested : Quantity
  /-- Set at exit (spec 49 R223). -/
  finalEnergyStored : Option Quantity
deriving DecidableEq, Repr

/-- The loop state (spec 49 R210). The non-empty list `periods` is `finished ++ [cur]`. -/
structure Loop where
  power : Power
  first : Bool
  elapsed : Nat
  time : Quantity
  nextSample : Quantity
  voltage : Quantity
  rate : Quantity
  noProgress : Nat
  finished : List Period
  cur : Period
  totals : Totals
deriving DecidableEq, Repr

/-- The period records, the last one the current (spec 49 R210). -/
def Loop.periods (l : Loop) : List Period := l.finished ++ [l.cur]

/-! ### The whole state -/

/-- The state of the machine. -/
structure State where
  cpu : Cpu
  mem : Memory
  /-- `branch_taken` (spec 10 R39). -/
  branchTaken : Bool
  /-- `exit_flag` (spec 10 R40). -/
  exitFlag : Bool
  /-- The cycle count the last Execute returned (spec 40 R86); the model's own field (notes/assumptions/7.md). -/
  stepCycles : Nat
  scheme : Scheme
  battery : Battery
  env : Environment
  loop : Loop
  /-- The OPEN parameters (spec 00 R9); no step changes them. -/
  params : Config.Params
deriving DecidableEq, Repr

/-! ### Why a step stops -/

/-- The kind of a memory access (spec 20 R48). -/
inductive Access
  | read
  | write
  | fetch
deriving DecidableEq, Repr

/-- Why an image cannot be loaded (spec 60 R231). -/
inductive LoadFailure
  | unreadable
  | tooLarge
deriving DecidableEq, Repr

/-- The fatal conditions with their diagnostic information: exactly the table of spec 60 R231. A fatal condition ends the run
(R232) and its state is no part of the result (R234, notes/assumptions/8.md). Each is the spec's own, so stopping there is no difference from the spec (safe). -/
inductive Fault
  /-- Raised by the decoder, by the meanings of the refused rows and by MSR CONTROL with bit 1 set: A, hw1, hw2 (safe). -/
  | malformedInstruction (a : Word) (hw1 : Half) (hw2 : Option Half)
  /-- Raised by BX, BLX and POP with PC on a target with bit 0 clear: A, T (safe). -/
  | unsupportedInterworking (a target : Word)
  /-- Raised at the start of a step and by an exception return: the offending `pc_reg` (safe). -/
  | modeViolation (pcReg : Word)
  /-- Raised by the loop at the fifth consecutive period without a backup: number of periods, `elapsed` (safe). -/
  | noForwardProgress (periods elapsed : Nat)
  /-- Raised by the image load, before any tick (safe). -/
  | imageLoadFailure (reason : LoadFailure) (size : Nat)
  /-- Raised by a load, store or fetch outside the regions it may use, and by a store to the program region (safe). -/
  | memoryFault (addr : Word) (width : Nat) (access : Access)
  /-- Raised by a misaligned data access (safe). -/
  | alignmentFault (addr : Word) (width : Nat)
deriving DecidableEq, Repr

/-- Why the model gives an instruction no meaning. -/
inductive Refusal
  /-- Raised by an arm of `exec` whose instruction has no meaning yet; no arm is left (safe). -/
  | notModelled (mnemonic : String)
deriving DecidableEq, Repr

/-- The outcome of an instruction or of a step. -/
abbrev Result := Host.Outcome State Fault Refusal

/-! ### Reset (spec 10 R43, 70 R250, 49 R214) -/

/-- The CPU State after reset over the empty image: the reset vector reads 0, so `pc_reg` is 0 + 4
(spec 70 R250; notes/assumptions/5.md). -/
def Cpu.reset : Cpu :=
  { regs := Vector.replicate 15 0#32, pcReg := 4#32, flags := ⟨false, false, false, false⟩, primask := false,
    mode := .thread, pending := 0#32 }

/-- The environment of State.reset: the constant 3.3 V trace and the sample period of spec 95 program P4, no charging.
DESIGN CHOICE (unsafe for a statement about State.reset only, notes/assumptions/3.md): the collaborators are OPEN. -/
def Environment.atReset : Environment :=
  { samplePeriod := 1 / 100, voltage := .table [] (33 / 10), rate := .table [] 0 }

/-- The loop state at the start of a run over `Environment.atReset` (spec 49 R214). -/
def Loop.reset : Loop :=
  { power := .inactive, first := true, elapsed := 0, time := 0, nextSample := 1 / 100, voltage := 33 / 10, rate := 0,
    noProgress := 0, finished := [], cur := Period.new,
    totals := { energyHarvested := 0, finalEnergyStored := none } }

/-- The machine right after reset, with the empty image and the collaborators of notes/assumptions/3.md. -/
def State.reset : State :=
  { cpu := Cpu.reset, mem := [], branchTaken := false, exitFlag := false, stepCycles := 0,
    scheme := { slot := none, policy := .alwaysOn, memo := [], clockFrequency := 1000 },
    battery := { stored := 0, capacitor := .constant (1 / 10000), charging := .unlimited, events := 0 },
    env := Environment.atReset, loop := Loop.reset, params := Config.Params.atReset }

end Sys2Proof.Machine
end

