-- ==== Sys2Proof/Machine/Num.lean ====
section
/-! DEFINITION. The arithmetic of `Num` (spec 49 R209): exact on the rationals, free on every other number type. All arithmetic of
energies, times, voltages and rates goes through these operations. -/

namespace Sys2Proof.Config

/-- `a + b`. -/
def NumType.add (n : NumType) (a b : Quantity) : Quantity :=
  match n with
  | .rational => a + b
  | .other k => otherAdd k a b

/-- `a - b`. -/
def NumType.sub (n : NumType) (a b : Quantity) : Quantity :=
  match n with
  | .rational => a - b
  | .other k => otherSub k a b

/-- `a * b`. -/
def NumType.mul (n : NumType) (a b : Quantity) : Quantity :=
  match n with
  | .rational => a * b
  | .other k => otherMul k a b

/-- `a / b`. -/
def NumType.div (n : NumType) (a b : Quantity) : Quantity :=
  match n with
  | .rational => a / b
  | .other k => otherDiv k a b

/-- `a <= b`. -/
def NumType.le (n : NumType) (a b : Quantity) : Bool :=
  match n with
  | .rational => decide (a ≤ b)
  | .other k => otherLe k a b

/-- A cycle count as a `Num`. -/
def NumType.ofNat (n : NumType) (m : Nat) : Quantity :=
  match n with
  | .rational => m
  | .other k => otherOfNat k m

/-- `a < b`. -/
def NumType.lt (n : NumType) (a b : Quantity) : Bool := !n.le b a

/-- `a = 0`; the code of 0 is 0 in every number type (notes/assumptions/11.md). -/
def NumType.isZero (n : NumType) (a : Quantity) : Bool := n.le a 0 && n.le 0 a

/-- The nearest value to `a` between 0 and `most`; 0 is its own nearest value in every number type. -/
def NumType.clamp (n : NumType) (most a : Quantity) : Quantity :=
  if a = 0 ∨ n.le a 0 = true then 0 else if n.le a most then a else most

end Sys2Proof.Config

namespace Sys2Proof.Machine

/-- The number type of the run. -/
abbrev State.num (s : State) : Config.NumType := s.params.num

end Sys2Proof.Machine
end

