-- ==== Sys2Proof/Machine/Battery.lean ====
section
/-! DEFINITION. The methods of the battery, the voltage trace and the charging rate (spec 49 R206 to R208). -/

namespace Sys2Proof.Machine

open Sys2Proof.Config (NumType)

/-! ### The battery (spec 49 R206) -/

/-- `energy_stored()`. -/
def Battery.energyStored (b : Battery) : Quantity := b.stored

/-- The capacitance of capacitor `k` of those that are not written out: a free function of the energy stored and of the battery's events, no
body (DESIGN CHOICE, safe, notes/assumptions/3.md). -/
opaque otherCapacitance (k : Nat) (stored : Quantity) (events : Nat) : Quantity

/-- The value of a capacitor. -/
def Capacitor.value (c : Capacitor) (stored : Quantity) (events : Nat) : Quantity :=
  match c with
  | .constant q => q
  | .other k => otherCapacitance k stored events

/-- `capacitance()`, called anew at every sample (spec 49 R215). -/
def Battery.capacitance (b : Battery) : Quantity := b.capacitor.value b.stored b.events

/-- What a request removes: what is asked for, but not less than nothing and not more than is stored, so that `energy_stored()` stays >= 0
(DESIGN CHOICE, safe, notes/assumptions/3.md). -/
def Battery.gives (n : NumType) (b : Battery) (asked : Quantity) : Quantity := n.clamp b.stored asked

/-- A scheme method removes energy. Where it removes 0, what is stored stays, in every number type (spec 48 R202). -/
def Battery.draw (n : NumType) (b : Battery) (asked : Quantity) : Battery :=
  { b with
    stored := if b.gives n asked = 0 then b.stored else n.sub b.stored (b.gives n asked)
    events := b.events + 1 }

/-- The acceptance of battery `k` of those whose charge equations are not written out: a free function of the battery and the offer, no
body (DESIGN CHOICE, safe, notes/assumptions/3.md). -/
opaque otherAcceptance (k : Nat) (b : Battery) (offered : Quantity) : Quantity

/-- What the charge equations of a battery would accept. -/
def Battery.room (n : NumType) (b : Battery) (offered : Quantity) : Quantity :=
  match b.charging with
  | .unlimited => offered
  | .capacity most => n.sub most b.stored
  | .other k => otherAcceptance k b offered

/-- The amount `harvest_energy(offered)` returns: between 0 and the offer (spec 49 R206). -/
def Battery.accepts (n : NumType) (b : Battery) (offered : Quantity) : Quantity :=
  n.clamp offered (b.room n offered)

/-- `harvest_energy` increases the stored energy by the accepted amount. -/
def Battery.harvest (n : NumType) (b : Battery) (amount : Quantity) : Battery :=
  { b with stored := n.add b.stored amount, events := b.events + 1 }

/-! ### The voltage trace and the charging rate (spec 49 R207, R208) -/

/-- The value of a function held as a table: the first entry of the argument, else the default. -/
def tableValue {α : Type} [DecidableEq α] (entries : List (α × Quantity)) (elsewhere : Quantity) (a : α) : Quantity :=
  match entries with
  | [] => elsewhere
  | (k, v) :: rest => if k = a then v else tableValue rest elsewhere a

/-- The voltage of trace `k` of those that are not written out: a free function of the time, no body (DESIGN CHOICE, safe,
notes/assumptions/3.md). -/
opaque otherVoltage (k : Nat) (t : Quantity) : Quantity

/-- Charging-rate function `k` of those that are not written out: a free function, no body (DESIGN CHOICE, safe,
notes/assumptions/3.md). -/
opaque otherRate (k : Nat) (voltage capacitance : Quantity) : Quantity

/-- `get_voltage(t)` (spec 49 R207). -/
def Environment.getVoltage (e : Environment) (t : Quantity) : Quantity :=
  match e.voltage with
  | .table entries elsewhere => tableValue entries elsewhere t
  | .other k => otherVoltage k t

/-- The value of `charging_rate_fn` before its bound. -/
def Environment.rateValue (e : Environment) (voltage capacitance : Quantity) : Quantity :=
  match e.rate with
  | .table entries elsewhere => tableValue entries elsewhere (voltage, capacitance)
  | .other k => otherRate k voltage capacitance

/-- A rate, or 0 in place of a negative one. -/
def nonNegative (n : NumType) (rate : Quantity) : Quantity := if n.le 0 rate then rate else 0

/-- `charging_rate_fn(voltage, capacitance)`, a value >= 0 (spec 49 R208). -/
def Environment.chargingRate (n : NumType) (e : Environment) (voltage capacitance : Quantity) : Quantity :=
  nonNegative n (e.rateValue voltage capacitance)

end Sys2Proof.Machine
end

