-- ==== Sys2Proof/WellFormed.lean ====
section
/-! DEFINITION. The constraints of the opcode table (spec 30 R75, R77): an instruction that breaks one has no admitted encoding.
The admission of the system rows (spec 30 R78, R79) depends on the machine's parameters and stands with their meanings. -/

namespace Sys2Proof

/-- Whether register `r` is the lowest register of `list` (spec 30 R77, STM). -/
def isLowest (r : LowReg) (list : BitVec 8) : Bool :=
  list.getLsbD r.val && list.toNat % 2 ^ r.val == 0

/-- The constraint of each row (spec 30 R75 and R77). -/
def Instr.wellFormed : Instr → Bool
  | .lslsImm _ _ _ => true
  | .lsrsImm _ _ _ => true
  | .asrsImm _ _ _ => true
  | .addsReg _ _ _ => true
  | .subsReg _ _ _ => true
  | .addsImm3 _ _ _ => true
  | .subsImm3 _ _ _ => true
  | .movsImm _ _ => true
  | .cmpImm _ _ => true
  | .addsImm8 _ _ => true
  | .subsImm8 _ _ => true
  | .ands _ _ => true
  | .eors _ _ => true
  | .lslsReg _ _ => true
  | .lsrsReg _ _ => true
  | .asrsReg _ _ => true
  | .adcs _ _ => true
  | .sbcs _ _ => true
  | .rors _ _ => true
  | .tst _ _ => true
  | .rsbs _ _ => true
  | .cmpReg _ _ => true
  | .cmn _ _ => true
  | .orrs _ _ => true
  | .muls _ _ => true
  | .bics _ _ => true
  | .mvns _ _ => true
  | .addHi rdn rm => !(rdn.val == 15 && rm.val == 15)
  | .cmpHi rn rm => !(rn.val < 8 && rm.val < 8) && rn.val != 15 && rm.val != 15
  | .movHi _ _ => true
  | .ldrLit _ _ => true
  | .strReg _ _ _ => true
  | .strhReg _ _ _ => true
  | .strbReg _ _ _ => true
  | .ldrsbReg _ _ _ => true
  | .ldrReg _ _ _ => true
  | .ldrhReg _ _ _ => true
  | .ldrbReg _ _ _ => true
  | .ldrshReg _ _ _ => true
  | .strImm _ _ _ => true
  | .ldrImm _ _ _ => true
  | .strbImm _ _ _ => true
  | .ldrbImm _ _ _ => true
  | .strhImm _ _ _ => true
  | .ldrhImm _ _ _ => true
  | .strSp _ _ => true
  | .ldrSp _ _ => true
  | .stm rn list => list != 0 && (!list.getLsbD rn.val || isLowest rn list)
  | .ldm _ list => list != 0
  | .push m list => m || list != 0
  | .pop p list => p || list != 0
  | .bCond _ _ => true
  | .b _ => true
  | .bl _ _ _ _ _ => true
  | .bx _ => true
  | .blx rm => rm.val != 15
  | .adr _ _ => true
  | .addSpRd _ _ => true
  | .addSpImm7 _ => true
  | .subSpImm7 _ => true
  | .sxth _ _ => true
  | .sxtb _ _ => true
  | .uxth _ _ => true
  | .uxtb _ _ => true
  | .rev _ _ => true
  | .rev16 _ _ => true
  | .revsh _ _ => true
  | .bkpt _ => true
  | .nop => true
  | .yield => true
  | .wfe => true
  | .wfi => true
  | .sev => true
  | .cpsie => true
  | .cpsid => true
  | .mrs rd _ => rd.val != 13 && rd.val != 15
  | .msr _ rn => rn.val != 13 && rn.val != 15
  | .dsb => true
  | .dmb => true
  | .isb => true
  | .svc _ => true
  | .udf _ => true
  | .udfW _ _ => true

/-- An instruction meets the constraints of its row. -/
abbrev Instr.WellFormed (i : Instr) : Prop := i.wellFormed = true

end Sys2Proof
end

