-- ==== Sys2Proof/Decode.lean ====
section
/-! DEFINITION. The decode engine (spec 40 R90), from spec 30's tables: a total function from the fetched halfwords to an
instruction or a named rejection, and after it the encoder, written from the same rows. -/

namespace Sys2Proof

/-- Why bits decode to no instruction. Each is the MalformedInstruction of spec 40 R90. -/
inductive DecodeReject
  /-- No row of 16 bits matches (spec 30 R76). -/
  | undefined16
  /-- No row of 32 bits matches (spec 30 R76). -/
  | undefined32
  /-- A reserved hint, opA 0101 to 1111 (spec 30 R78). -/
  | reservedHint
  /-- MRS or MSR of a SYSm that names no special register (spec 10 R37). -/
  | noSpecialRegister
  /-- A row matches and its constraint fails (spec 30 R77). -/
  | constraintFails
  /-- A 32-bit first halfword without a second one (never at a fetch, spec 40 R85). -/
  | truncated
deriving DecidableEq, Repr

/-! ### Fields of a halfword, read as a number -/

/-- Bits `lo + len - 1 : lo` of `w`. -/
def field (w lo len : Nat) : Nat := w / 2 ^ lo % 2 ^ len

/-- The 3-bit register field whose lowest bit is `lo` (spec 30 R71). -/
def lowRegAt (w lo : Nat) : LowReg := Fin.ofNat 8 (w / 2 ^ lo)

/-- The 4-bit register field whose lowest bit is `lo` (spec 30 R71). -/
def regAt (w lo : Nat) : Reg := Fin.ofNat 16 (w / 2 ^ lo)

/-- The register `D:Rdn` of T_HIREG, D in bit 7 and Rdn in bits 2:0 (spec 30 R68, R71). -/
def hiRegAt (w : Nat) : Reg := Fin.ofNat 16 (field w 7 1 * 8 + field w 0 3)

/-- The immediate field of `n` bits whose lowest bit is `lo`. -/
def immAt (n : Nat) (w lo : Nat) : BitVec n := BitVec.ofNat n (w / 2 ^ lo)

/-- Spec 30 R66: the halfword is the first of a 32-bit instruction. -/
def isWide (hw1 : Half) : Bool := 29 ≤ field hw1.toNat 11 5

/-- Spec 30 R80: the exit sentinel. -/
def isExitWord (hw1 : Half) : Bool := hw1 &&& Config.exitMask == Config.exitMatch

/-- The number of each condition (spec 30 R72). -/
def Cond.toNat : Cond → Nat
  | .eq => 0 | .ne => 1 | .cs => 2 | .cc => 3 | .mi => 4 | .pl => 5 | .vs => 6
  | .vc => 7 | .hi => 8 | .ls => 9 | .ge => 10 | .lt => 11 | .gt => 12 | .le => 13

/-- The condition of a number; 14 and 15 name none (spec 30 R72). -/
def Cond.ofNat? : Nat → Option Cond
  | 0 => some .eq | 1 => some .ne | 2 => some .cs | 3 => some .cc | 4 => some .mi
  | 5 => some .pl | 6 => some .vs | 7 => some .vc | 8 => some .hi | 9 => some .ls
  | 10 => some .ge | 11 => some .lt | 12 => some .gt | 13 => some .le | _ => none

/-- The SYSm number of a special register (spec 10 R37). -/
def SysReg.toNat : SysReg → Nat
  | .apsr => 0 | .iapsr => 1 | .eapsr => 2 | .xpsr => 3 | .ipsr => 5
  | .epsr => 6 | .iepsr => 7 | .msp => 8 | .primask => 16 | .control => 20

/-- The special register of a SYSm number; PSP (9) and every number not listed name none (spec 10 R37). -/
def SysReg.ofNat? : Nat → Option SysReg
  | 0 => some .apsr | 1 => some .iapsr | 2 => some .eapsr | 3 => some .xpsr | 5 => some .ipsr
  | 6 => some .epsr | 7 => some .iepsr | 8 => some .msp | 16 => some .primask | 20 => some .control
  | _ => none

/-! ### The sub-dispatchers of spec 30 R73, one per value of `hw1[15:12]` (spec 40 R94) -/

/-- Class 0000: LSLS, LSRS (imm). -/
def decode0 (w : Nat) : Except DecodeReject Instr :=
  if field w 11 1 = 0 then .ok (.lslsImm (lowRegAt w 0) (lowRegAt w 3) (immAt 5 w 6))
  else .ok (.lsrsImm (lowRegAt w 0) (lowRegAt w 3) (immAt 5 w 6))

/-- Class 0001: ASRS (imm), three-operand add and subtract. -/
def decode1 (w : Nat) : Except DecodeReject Instr :=
  if field w 11 1 = 0 then .ok (.asrsImm (lowRegAt w 0) (lowRegAt w 3) (immAt 5 w 6))
  else match field w 9 2 with
    | 0 => .ok (.addsReg (lowRegAt w 0) (lowRegAt w 3) (lowRegAt w 6))
    | 1 => .ok (.subsReg (lowRegAt w 0) (lowRegAt w 3) (lowRegAt w 6))
    | 2 => .ok (.addsImm3 (lowRegAt w 0) (lowRegAt w 3) (immAt 3 w 6))
    | _ => .ok (.subsImm3 (lowRegAt w 0) (lowRegAt w 3) (immAt 3 w 6))

/-- Class 0010: MOVS, CMP (imm8). -/
def decode2 (w : Nat) : Except DecodeReject Instr :=
  if field w 11 1 = 0 then .ok (.movsImm (lowRegAt w 8) (immAt 8 w 0))
  else .ok (.cmpImm (lowRegAt w 8) (immAt 8 w 0))

/-- Class 0011: ADDS, SUBS (imm8). -/
def decode3 (w : Nat) : Except DecodeReject Instr :=
  if field w 11 1 = 0 then .ok (.addsImm8 (lowRegAt w 8) (immAt 8 w 0))
  else .ok (.subsImm8 (lowRegAt w 8) (immAt 8 w 0))

/-- The sixteen T_DP operations (spec 30 R74). -/
def decodeDp (w : Nat) : Except DecodeReject Instr :=
  match field w 6 4 with
  | 0 => .ok (.ands (lowRegAt w 0) (lowRegAt w 3))
  | 1 => .ok (.eors (lowRegAt w 0) (lowRegAt w 3))
  | 2 => .ok (.lslsReg (lowRegAt w 0) (lowRegAt w 3))
  | 3 => .ok (.lsrsReg (lowRegAt w 0) (lowRegAt w 3))
  | 4 => .ok (.asrsReg (lowRegAt w 0) (lowRegAt w 3))
  | 5 => .ok (.adcs (lowRegAt w 0) (lowRegAt w 3))
  | 6 => .ok (.sbcs (lowRegAt w 0) (lowRegAt w 3))
  | 7 => .ok (.rors (lowRegAt w 0) (lowRegAt w 3))
  | 8 => .ok (.tst (lowRegAt w 0) (lowRegAt w 3))
  | 9 => .ok (.rsbs (lowRegAt w 0) (lowRegAt w 3))
  | 10 => .ok (.cmpReg (lowRegAt w 0) (lowRegAt w 3))
  | 11 => .ok (.cmn (lowRegAt w 0) (lowRegAt w 3))
  | 12 => .ok (.orrs (lowRegAt w 0) (lowRegAt w 3))
  | 13 => .ok (.muls (lowRegAt w 0) (lowRegAt w 3))
  | 14 => .ok (.bics (lowRegAt w 0) (lowRegAt w 3))
  | _ => .ok (.mvns (lowRegAt w 0) (lowRegAt w 3))

/-- The high-register forms and BX, BLX; BX and BLX need bits 2:0 clear (spec 30 R68, R76). -/
def decodeHi (w : Nat) : Except DecodeReject Instr :=
  match field w 8 2 with
  | 0 => .ok (.addHi (hiRegAt w) (regAt w 3))
  | 1 => .ok (.cmpHi (hiRegAt w) (regAt w 3))
  | 2 => .ok (.movHi (hiRegAt w) (regAt w 3))
  | _ =>
    if field w 0 3 = 0 then
      if field w 7 1 = 0 then .ok (.bx (regAt w 3)) else .ok (.blx (regAt w 3))
    else .error .undefined16

/-- Class 0100: T_DP, the high-register forms, LDR literal. -/
def decode4 (w : Nat) : Except DecodeReject Instr :=
  if field w 11 1 = 1 then .ok (.ldrLit (lowRegAt w 8) (immAt 8 w 0))
  else if field w 10 1 = 0 then decodeDp w
  else decodeHi w

/-- Class 0101: loads and stores with a register offset. -/
def decode5 (w : Nat) : Except DecodeReject Instr :=
  match field w 9 3 with
  | 0 => .ok (.strReg (lowRegAt w 0) (lowRegAt w 3) (lowRegAt w 6))
  | 1 => .ok (.strhReg (lowRegAt w 0) (lowRegAt w 3) (lowRegAt w 6))
  | 2 => .ok (.strbReg (lowRegAt w 0) (lowRegAt w 3) (lowRegAt w 6))
  | 3 => .ok (.ldrsbReg (lowRegAt w 0) (lowRegAt w 3) (lowRegAt w 6))
  | 4 => .ok (.ldrReg (lowRegAt w 0) (lowRegAt w 3) (lowRegAt w 6))
  | 5 => .ok (.ldrhReg (lowRegAt w 0) (lowRegAt w 3) (lowRegAt w 6))
  | 6 => .ok (.ldrbReg (lowRegAt w 0) (lowRegAt w 3) (lowRegAt w 6))
  | _ => .ok (.ldrshReg (lowRegAt w 0) (lowRegAt w 3) (lowRegAt w 6))

/-- Class 0110: STR, LDR (imm5). -/
def decode6 (w : Nat) : Except DecodeReject Instr :=
  if field w 11 1 = 0 then .ok (.strImm (lowRegAt w 0) (lowRegAt w 3) (immAt 5 w 6))
  else .ok (.ldrImm (lowRegAt w 0) (lowRegAt w 3) (immAt 5 w 6))

/-- Class 0111: STRB, LDRB (imm5). -/
def decode7 (w : Nat) : Except DecodeReject Instr :=
  if field w 11 1 = 0 then .ok (.strbImm (lowRegAt w 0) (lowRegAt w 3) (immAt 5 w 6))
  else .ok (.ldrbImm (lowRegAt w 0) (lowRegAt w 3) (immAt 5 w 6))

/-- Class 1000: STRH, LDRH (imm5). -/
def decode8 (w : Nat) : Except DecodeReject Instr :=
  if field w 11 1 = 0 then .ok (.strhImm (lowRegAt w 0) (lowRegAt w 3) (immAt 5 w 6))
  else .ok (.ldrhImm (lowRegAt w 0) (lowRegAt w 3) (immAt 5 w 6))

/-- Class 1001: STR, LDR (SP). -/
def decode9 (w : Nat) : Except DecodeReject Instr :=
  if field w 11 1 = 0 then .ok (.strSp (lowRegAt w 8) (immAt 8 w 0))
  else .ok (.ldrSp (lowRegAt w 8) (immAt 8 w 0))

/-- Class 1010: ADR, ADD Rd, SP. -/
def decode10 (w : Nat) : Except DecodeReject Instr :=
  if field w 11 1 = 0 then .ok (.adr (lowRegAt w 8) (immAt 8 w 0))
  else .ok (.addSpRd (lowRegAt w 8) (immAt 8 w 0))

/-- ADD, SUB SP by bit 7. -/
def decodeSpAdjust (w : Nat) : Except DecodeReject Instr :=
  if field w 7 1 = 0 then .ok (.addSpImm7 (immAt 7 w 0)) else .ok (.subSpImm7 (immAt 7 w 0))

/-- The extend group by bits 7:6. -/
def decodeExtend (w : Nat) : Except DecodeReject Instr :=
  match field w 6 2 with
  | 0 => .ok (.sxth (lowRegAt w 0) (lowRegAt w 3))
  | 1 => .ok (.sxtb (lowRegAt w 0) (lowRegAt w 3))
  | 2 => .ok (.uxth (lowRegAt w 0) (lowRegAt w 3))
  | _ => .ok (.uxtb (lowRegAt w 0) (lowRegAt w 3))

/-- CPS: only the exact words 0xB662 and 0xB672 (spec 30 R76). -/
def decodeCps (w : Nat) : Except DecodeReject Instr :=
  if field w 0 8 = 0x62 then .ok .cpsie
  else if field w 0 8 = 0x72 then .ok .cpsid
  else .error .undefined16

/-- The reverse group by bits 7:6; op 10 is undefined (spec 30 R76). -/
def decodeReverse (w : Nat) : Except DecodeReject Instr :=
  match field w 6 2 with
  | 0 => .ok (.rev (lowRegAt w 0) (lowRegAt w 3))
  | 1 => .ok (.rev16 (lowRegAt w 0) (lowRegAt w 3))
  | 2 => .error .undefined16
  | _ => .ok (.revsh (lowRegAt w 0) (lowRegAt w 3))

/-- The hint space (spec 30 R78); opB not 0000 is the IT space, undefined (spec 30 R76). -/
def decodeHint (w : Nat) : Except DecodeReject Instr :=
  if field w 0 4 = 0 then
    match field w 4 4 with
    | 0 => .ok .nop
    | 1 => .ok .yield
    | 2 => .ok .wfe
    | 3 => .ok .wfi
    | 4 => .ok .sev
    | _ => .error .reservedHint
  else .error .undefined16

/-- Class 1011: the miscellaneous group by bits 11:8. -/
def decode11 (w : Nat) : Except DecodeReject Instr :=
  match field w 8 4 with
  | 0 => decodeSpAdjust w
  | 2 => decodeExtend w
  | 4 => .ok (.push false (immAt 8 w 0))
  | 5 => .ok (.push true (immAt 8 w 0))
  | 6 => decodeCps w
  | 10 => decodeReverse w
  | 12 => .ok (.pop false (immAt 8 w 0))
  | 13 => .ok (.pop true (immAt 8 w 0))
  | 14 => .ok (.bkpt (immAt 8 w 0))
  | 15 => decodeHint w
  | _ => .error .undefined16

/-- Class 1100: STM, LDM. -/
def decode12 (w : Nat) : Except DecodeReject Instr :=
  if field w 11 1 = 0 then .ok (.stm (lowRegAt w 8) (immAt 8 w 0))
  else .ok (.ldm (lowRegAt w 8) (immAt 8 w 0))

/-- Class 1101: B<c>, UDF, SVC. -/
def decode13 (w : Nat) : Except DecodeReject Instr :=
  match Cond.ofNat? (field w 8 4) with
  | some c => .ok (.bCond c (immAt 8 w 0))
  | none => if field w 8 4 = 14 then .ok (.udf (immAt 8 w 0)) else .ok (.svc (immAt 8 w 0))

/-- Class 1110: B; bit 11 set is a 32-bit first halfword, undefined (spec 30 R73). -/
def decode14 (w : Nat) : Except DecodeReject Instr :=
  if field w 11 1 = 0 then .ok (.b (immAt 11 w 0)) else .error .undefined32

/-- The 16-entry top-level table (spec 40 R94) over a 16-bit instruction. -/
def decode16 (w : Nat) : Except DecodeReject Instr :=
  match field w 12 4 with
  | 0 => decode0 w
  | 1 => decode1 w
  | 2 => decode2 w
  | 3 => decode3 w
  | 4 => decode4 w
  | 5 => decode5 w
  | 6 => decode6 w
  | 7 => decode7 w
  | 8 => decode8 w
  | 9 => decode9 w
  | 10 => decode10 w
  | 11 => decode11 w
  | 12 => decode12 w
  | 13 => decode13 w
  | 14 => decode14 w
  | _ => .error .undefined32

/-- MRS and MSR name a special register or are refused (spec 10 R37). -/
def withSysReg (sysm : Nat) (k : SysReg → Instr) : Except DecodeReject Instr :=
  match SysReg.ofNat? sysm with
  | some r => .ok (k r)
  | none => .error .noSpecialRegister

/-- The 32-bit rows (spec 30 R75) over the two halfwords. -/
def decode32 (h1 h2 : Nat) : Except DecodeReject Instr :=
  if field h1 11 5 = 0b11110 ∧ field h2 14 2 = 0b11 ∧ field h2 12 1 = 1 then
    .ok (.bl (immAt 1 h1 10) (immAt 10 h1 0) (immAt 1 h2 13) (immAt 1 h2 11) (immAt 11 h2 0))
  else if field h1 4 12 = 0xF38 ∧ field h2 8 8 = 0x88 then
    withSysReg (field h2 0 8) fun r => .msr r (regAt h1 0)
  else if h1 = 0xF3EF ∧ field h2 12 4 = 0x8 then
    withSysReg (field h2 0 8) fun r => .mrs (regAt h2 8) r
  else if h1 = 0xF3BF ∧ h2 = 0x8F4F then .ok .dsb
  else if h1 = 0xF3BF ∧ h2 = 0x8F5F then .ok .dmb
  else if h1 = 0xF3BF ∧ h2 = 0x8F6F then .ok .isb
  else if field h1 4 12 = 0xF7F ∧ field h2 12 4 = 0xA then
    .ok (.udfW (immAt 4 h1 0) (immAt 12 h2 0))
  else .error .undefined32

/-- The row a word matches, before its constraint is checked; the exit sentinel is looked for first (spec 40 R90). -/
def decodeRow (hw1 : Half) (hw2 : Option Half) : Except DecodeReject Instr :=
  if isWide hw1 then
    match hw2 with
    | some h2 => decode32 hw1.toNat h2.toNat
    | none => .error .truncated
  else if isExitWord hw1 then .ok (.bkpt (immAt 8 hw1.toNat 0))
  else decode16 hw1.toNat

/-- `Decode(hw1, hw2)` of spec 40 R90: the matching row whose constraint holds, or a rejection. The rows that spec 30
R78 and R79 refuse whole (SVC, UDF, UDF.W, WFE, WFI; the system rows without SYSTEM_EXT) decode here and raise
MalformedInstruction in their meanings (notes/assumptions/9.md). -/
def decode (hw1 : Half) (hw2 : Option Half) : Except DecodeReject Instr :=
  match decodeRow hw1 hw2 with
  | .ok i => if i.WellFormed then .ok i else .error .constraintFails
  | .error e => .error e

/-- The halfword of two bytes, the one at the lower address first (spec 20 R51). -/
def halfOfBytes (lo hi : Byte) : Half := hi ++ lo

/-- The instruction at the head of a byte sequence and the bytes after it; total on any bytes. -/
def decodeBytes : List Byte → Except DecodeReject (Instr × List Byte)
  | b0 :: b1 :: rest =>
    if isWide (halfOfBytes b0 b1) then
      match rest with
      | b2 :: b3 :: rest' =>
        (decode (halfOfBytes b0 b1) (some (halfOfBytes b2 b3))).map fun i => (i, rest')
      | _ => .error .truncated
    else (decode (halfOfBytes b0 b1) none).map fun i => (i, rest)
  | _ => .error .truncated

/-! ### The encoder, from the same rows (spec 30 R75) -/

/-- A 16-bit instruction. -/
def enc16 (n : Nat) : Half × Option Half := (BitVec.ofNat 16 n, none)

/-- A 32-bit instruction. -/
def enc32 (n m : Nat) : Half × Option Half := (BitVec.ofNat 16 n, some (BitVec.ofNat 16 m))

/-- `D:Rdn` and Rm of T_HIREG (spec 30 R68). -/
def encHi (base : Nat) (d m : Reg) : Half × Option Half :=
  enc16 (base + d.val / 8 * 2 ^ 7 + m.val * 2 ^ 3 + d.val % 8)

/-- The words of an instruction. -/
def encode : Instr → Half × Option Half
  | .lslsImm rd rm imm5 => enc16 (0x0000 + imm5.toNat * 2 ^ 6 + rm.val * 2 ^ 3 + rd.val)
  | .lsrsImm rd rm imm5 => enc16 (0x0800 + imm5.toNat * 2 ^ 6 + rm.val * 2 ^ 3 + rd.val)
  | .asrsImm rd rm imm5 => enc16 (0x1000 + imm5.toNat * 2 ^ 6 + rm.val * 2 ^ 3 + rd.val)
  | .addsReg rd rn rm => enc16 (0x1800 + rm.val * 2 ^ 6 + rn.val * 2 ^ 3 + rd.val)
  | .subsReg rd rn rm => enc16 (0x1A00 + rm.val * 2 ^ 6 + rn.val * 2 ^ 3 + rd.val)
  | .addsImm3 rd rn imm3 => enc16 (0x1C00 + imm3.toNat * 2 ^ 6 + rn.val * 2 ^ 3 + rd.val)
  | .subsImm3 rd rn imm3 => enc16 (0x1E00 + imm3.toNat * 2 ^ 6 + rn.val * 2 ^ 3 + rd.val)
  | .movsImm rd imm8 => enc16 (0x2000 + rd.val * 2 ^ 8 + imm8.toNat)
  | .cmpImm rn imm8 => enc16 (0x2800 + rn.val * 2 ^ 8 + imm8.toNat)
  | .addsImm8 rdn imm8 => enc16 (0x3000 + rdn.val * 2 ^ 8 + imm8.toNat)
  | .subsImm8 rdn imm8 => enc16 (0x3800 + rdn.val * 2 ^ 8 + imm8.toNat)
  | .ands rdn rm => enc16 (0x4000 + rm.val * 2 ^ 3 + rdn.val)
  | .eors rdn rm => enc16 (0x4040 + rm.val * 2 ^ 3 + rdn.val)
  | .lslsReg rdn rm => enc16 (0x4080 + rm.val * 2 ^ 3 + rdn.val)
  | .lsrsReg rdn rm => enc16 (0x40C0 + rm.val * 2 ^ 3 + rdn.val)
  | .asrsReg rdn rm => enc16 (0x4100 + rm.val * 2 ^ 3 + rdn.val)
  | .adcs rdn rm => enc16 (0x4140 + rm.val * 2 ^ 3 + rdn.val)
  | .sbcs rdn rm => enc16 (0x4180 + rm.val * 2 ^ 3 + rdn.val)
  | .rors rdn rm => enc16 (0x41C0 + rm.val * 2 ^ 3 + rdn.val)
  | .tst rn rm => enc16 (0x4200 + rm.val * 2 ^ 3 + rn.val)
  | .rsbs rd rn => enc16 (0x4240 + rn.val * 2 ^ 3 + rd.val)
  | .cmpReg rn rm => enc16 (0x4280 + rm.val * 2 ^ 3 + rn.val)
  | .cmn rn rm => enc16 (0x42C0 + rm.val * 2 ^ 3 + rn.val)
  | .orrs rdn rm => enc16 (0x4300 + rm.val * 2 ^ 3 + rdn.val)
  | .muls rdm rn => enc16 (0x4340 + rn.val * 2 ^ 3 + rdm.val)
  | .bics rdn rm => enc16 (0x4380 + rm.val * 2 ^ 3 + rdn.val)
  | .mvns rd rm => enc16 (0x43C0 + rm.val * 2 ^ 3 + rd.val)
  | .addHi rdn rm => encHi 0x4400 rdn rm
  | .cmpHi rn rm => encHi 0x4500 rn rm
  | .movHi rd rm => encHi 0x4600 rd rm
  | .ldrLit rt imm8 => enc16 (0x4800 + rt.val * 2 ^ 8 + imm8.toNat)
  | .strReg rt rn rm => enc16 (0x5000 + rm.val * 2 ^ 6 + rn.val * 2 ^ 3 + rt.val)
  | .strhReg rt rn rm => enc16 (0x5200 + rm.val * 2 ^ 6 + rn.val * 2 ^ 3 + rt.val)
  | .strbReg rt rn rm => enc16 (0x5400 + rm.val * 2 ^ 6 + rn.val * 2 ^ 3 + rt.val)
  | .ldrsbReg rt rn rm => enc16 (0x5600 + rm.val * 2 ^ 6 + rn.val * 2 ^ 3 + rt.val)
  | .ldrReg rt rn rm => enc16 (0x5800 + rm.val * 2 ^ 6 + rn.val * 2 ^ 3 + rt.val)
  | .ldrhReg rt rn rm => enc16 (0x5A00 + rm.val * 2 ^ 6 + rn.val * 2 ^ 3 + rt.val)
  | .ldrbReg rt rn rm => enc16 (0x5C00 + rm.val * 2 ^ 6 + rn.val * 2 ^ 3 + rt.val)
  | .ldrshReg rt rn rm => enc16 (0x5E00 + rm.val * 2 ^ 6 + rn.val * 2 ^ 3 + rt.val)
  | .strImm rt rn imm5 => enc16 (0x6000 + imm5.toNat * 2 ^ 6 + rn.val * 2 ^ 3 + rt.val)
  | .ldrImm rt rn imm5 => enc16 (0x6800 + imm5.toNat * 2 ^ 6 + rn.val * 2 ^ 3 + rt.val)
  | .strbImm rt rn imm5 => enc16 (0x7000 + imm5.toNat * 2 ^ 6 + rn.val * 2 ^ 3 + rt.val)
  | .ldrbImm rt rn imm5 => enc16 (0x7800 + imm5.toNat * 2 ^ 6 + rn.val * 2 ^ 3 + rt.val)
  | .strhImm rt rn imm5 => enc16 (0x8000 + imm5.toNat * 2 ^ 6 + rn.val * 2 ^ 3 + rt.val)
  | .ldrhImm rt rn imm5 => enc16 (0x8800 + imm5.toNat * 2 ^ 6 + rn.val * 2 ^ 3 + rt.val)
  | .strSp rt imm8 => enc16 (0x9000 + rt.val * 2 ^ 8 + imm8.toNat)
  | .ldrSp rt imm8 => enc16 (0x9800 + rt.val * 2 ^ 8 + imm8.toNat)
  | .stm rn list => enc16 (0xC000 + rn.val * 2 ^ 8 + list.toNat)
  | .ldm rn list => enc16 (0xC800 + rn.val * 2 ^ 8 + list.toNat)
  | .push m list => enc16 (0xB400 + m.toNat * 2 ^ 8 + list.toNat)
  | .pop p list => enc16 (0xBC00 + p.toNat * 2 ^ 8 + list.toNat)
  | .bCond cond imm8 => enc16 (0xD000 + cond.toNat * 2 ^ 8 + imm8.toNat)
  | .b imm11 => enc16 (0xE000 + imm11.toNat)
  | .bl s imm10 j1 j2 imm11 => enc32 (0xF000 + s.toNat * 2 ^ 10 + imm10.toNat) (0xD000 + j1.toNat * 2 ^ 13 + j2.toNat * 2 ^ 11 + imm11.toNat)
  | .bx rm => enc16 (0x4700 + rm.val * 2 ^ 3)
  | .blx rm => enc16 (0x4780 + rm.val * 2 ^ 3)
  | .adr rd imm8 => enc16 (0xA000 + rd.val * 2 ^ 8 + imm8.toNat)
  | .addSpRd rd imm8 => enc16 (0xA800 + rd.val * 2 ^ 8 + imm8.toNat)
  | .addSpImm7 imm7 => enc16 (0xB000 + imm7.toNat)
  | .subSpImm7 imm7 => enc16 (0xB080 + imm7.toNat)
  | .sxth rd rm => enc16 (0xB200 + rm.val * 2 ^ 3 + rd.val)
  | .sxtb rd rm => enc16 (0xB240 + rm.val * 2 ^ 3 + rd.val)
  | .uxth rd rm => enc16 (0xB280 + rm.val * 2 ^ 3 + rd.val)
  | .uxtb rd rm => enc16 (0xB2C0 + rm.val * 2 ^ 3 + rd.val)
  | .rev rd rm => enc16 (0xBA00 + rm.val * 2 ^ 3 + rd.val)
  | .rev16 rd rm => enc16 (0xBA40 + rm.val * 2 ^ 3 + rd.val)
  | .revsh rd rm => enc16 (0xBAC0 + rm.val * 2 ^ 3 + rd.val)
  | .bkpt imm8 => enc16 (0xBE00 + imm8.toNat)
  | .nop => enc16 0xBF00
  | .yield => enc16 0xBF10
  | .wfe => enc16 0xBF20
  | .wfi => enc16 0xBF30
  | .sev => enc16 0xBF40
  | .cpsie => enc16 0xB662
  | .cpsid => enc16 0xB672
  | .mrs rd sysm => enc32 (0xF3EF) (0x8000 + rd.val * 2 ^ 8 + sysm.toNat)
  | .msr sysm rn => enc32 (0xF380 + rn.val) (0x8800 + sysm.toNat)
  | .dsb => enc32 (0xF3BF) (0x8F4F)
  | .dmb => enc32 (0xF3BF) (0x8F5F)
  | .isb => enc32 (0xF3BF) (0x8F6F)
  | .svc imm8 => enc16 (0xDF00 + imm8.toNat)
  | .udf imm8 => enc16 (0xDE00 + imm8.toNat)
  | .udfW imm4 imm12 => enc32 (0xF7F0 + imm4.toNat) (0xA000 + imm12.toNat)

/-- The width of an instruction in bytes, `len` of spec 40 R83. -/
def Instr.len (i : Instr) : Nat := if isWide (encode i).1 then 4 else 2

/-- The tag EXIT of spec 40 R90. -/
def Instr.isExit (i : Instr) : Bool := !isWide (encode i).1 && isExitWord (encode i).1

/-! ### The words as spec/opcode_table.json numbers them -/

/-- The two halfwords of a table word. A 32-bit row is the number `hw1:hw2` (spec 30 R66, R75); where the upper halfword is no
first halfword of a 32-bit instruction the first word is the lower one (notes/assumptions/6.md). -/
def tableHalves (nbits w : Nat) : Half × Half :=
  let lower : Half := BitVec.ofNat 16 w
  let upper : Half := BitVec.ofNat 16 (w / 2 ^ 16)
  if nbits ≤ 16 then (lower, 0#16)
  else if isWide upper then (upper, lower)
  else (lower, upper)

/-- The four bytes of a table word as the hardware stores them (spec 20 R51). -/
def tableBytes (nbits w : Nat) : List Byte :=
  let h := tableHalves nbits w
  [h.1.extractLsb' 0 8, h.1.extractLsb' 8 8, h.2.extractLsb' 0 8, h.2.extractLsb' 8 8]

/-- The instruction the decoder reads from a table word. -/
def decodeTableWord (nbits w : Nat) : Option Instr :=
  match decodeBytes (tableBytes nbits w) with
  | .ok (i, _) => some i
  | .error _ => none

end Sys2Proof
end

