-- ==== Sys2Proof/Machine/Flags.lean ====
section
/-! DEFINITION. The flag logic of spec 40 section 4 and the condition predicate of section 5. -/

namespace Sys2Proof.Machine

/-- The result of an addition with its carry and overflow (spec 40 R98). -/
structure AddOut where
  result : Word
  carry : Bool
  overflow : Bool
deriving DecidableEq, Repr

/-- `AddWithCarry` (spec 40 R98). -/
def addWithCarry (x y : Word) (carryIn : Bool) : AddOut :=
  let usum : Nat := x.toNat + y.toNat + carryIn.toNat
  let result : Word := BitVec.ofNat 32 usum
  { result := result
    carry := decide (2 ^ 32 ≤ usum)
    overflow := x.msb == y.msb && result.msb != x.msb }

/-- The four shift kinds (spec 40 R99 to R102). -/
inductive ShiftKind
  | lsl | lsr | asr | ror
deriving DecidableEq, Repr

/-- `LSL_C` for n >= 1 (spec 40 R99). -/
def lslC (x : Word) (n : Nat) : Word × Bool :=
  if n ≤ 32 then (x <<< n, x.getLsbD (32 - n)) else (0#32, false)

/-- `LSR_C` for n >= 1 (spec 40 R100). -/
def lsrC (x : Word) (n : Nat) : Word × Bool :=
  if n ≤ 32 then (x >>> n, x.getLsbD (n - 1)) else (0#32, false)

/-- `ASR_C` for n >= 1 (spec 40 R101). -/
def asrC (x : Word) (n : Nat) : Word × Bool :=
  if n < 32 then (x.sshiftRight n, x.getLsbD (n - 1))
  else (if x.msb then BitVec.allOnes 32 else 0#32, x.msb)

/-- `ROR_C` for n >= 1 (spec 40 R102). -/
def rorC (x : Word) (n : Nat) : Word × Bool :=
  let m := n % 32
  let result : Word := if m = 0 then x else (x >>> m) ||| (x <<< (32 - m))
  (result, result.msb)

/-- `kind_C(x, n)` for n >= 1. -/
def shiftBy (kind : ShiftKind) (x : Word) (n : Nat) : Word × Bool :=
  match kind with
  | .lsl => lslC x n
  | .lsr => lsrC x n
  | .asr => asrC x n
  | .ror => rorC x n

/-- `Shift_C` (spec 40 R102): amount 0 keeps the value and the carry. -/
def shiftC (x : Word) (kind : ShiftKind) (n : Nat) (carryIn : Bool) : Word × Bool :=
  if n = 0 then (x, carryIn) else shiftBy kind x n

/-- N and Z of a result, C and V kept (spec 40 R97, R104). -/
def Flags.setNZ (f : Flags) (result : Word) : Flags :=
  { f with n := result.msb, z := result == 0#32 }

/-- N and Z of a result, C given, V kept: the shifts (spec 41, 42). -/
def Flags.setNZC (f : Flags) (result : Word) (carry : Bool) : Flags :=
  { f with n := result.msb, z := result == 0#32, c := carry }

/-- All four flags of an addition (spec 40 R97, R98). -/
def Flags.ofAdd (r : AddOut) : Flags :=
  { n := r.result.msb, z := r.result == 0#32, c := r.carry, v := r.overflow }

/-- The flags packed as APSR: bits 31 to 28, the rest zero (spec 10 R31). -/
def Flags.packed (f : Flags) : Word :=
  BitVec.ofBool f.n ++ BitVec.ofBool f.z ++ BitVec.ofBool f.c ++ BitVec.ofBool f.v ++ 0#28

/-- The flags from bits 31 to 28 of a word (spec 10 R31). -/
def Flags.ofWord (w : Word) : Flags :=
  { n := w.getLsbD 31, z := w.getLsbD 30, c := w.getLsbD 29, v := w.getLsbD 28 }

/-- `ConditionPassed` (spec 40 R105). -/
def conditionPassed (cond : Cond) (f : Flags) : Bool :=
  match cond with
  | .eq => f.z
  | .ne => !f.z
  | .cs => f.c
  | .cc => !f.c
  | .mi => f.n
  | .pl => !f.n
  | .vs => f.v
  | .vc => !f.v
  | .hi => f.c && !f.z
  | .ls => !f.c || f.z
  | .ge => f.n == f.v
  | .lt => f.n != f.v
  | .gt => !f.z && f.n == f.v
  | .le => f.z || f.n != f.v

end Sys2Proof.Machine
end

