-- ==== Sys2Proof/Machine/Ops.lean ====
section
/-! DEFINITION. The named operations over registers and memory, the branch primitives, the raising of a fatal condition and
the exception return. Every meaning goes through them. -/

namespace Sys2Proof.Machine

/-! ### Outcomes -/

/-- Go on with a value, or raise its fatal condition (spec 00 R15). -/
def orFault {α : Type} (e : Except Fault α) (k : α → Result) : Result :=
  match e with
  | .ok a => k a
  | .error f => .fault f

/-- Go on from a next state; a fault or a refusal ends it. -/
def andThen (o : Result) (k : State → Result) : Result :=
  match o with
  | .next s => k s
  | .fault f => .fault f
  | .refused r => .refused r

/-! ### Registers (spec 00 R13, 10 R21 to R28) -/

/-- The instruction address A of a stored `pc_reg` (spec 10 R27). -/
def instrAddr (pcReg : Word) : Word := (pcReg &&& 0xFFFFFFFE#32) - 4#32

/-- A low register as one of the sixteen. -/
def lo (r : LowReg) : Reg := Fin.castLE (by decide) r

/-- SP (spec 10 R21). -/
def sp : Reg := 13

/-- LR (spec 10 R21). -/
def lr : Reg := 14

/-- `x[i]`: r0 to r14, and for 15 the PC read value (spec 10 R28). -/
def Cpu.read (c : Cpu) (i : Reg) : Word :=
  if h : i.val < 15 then c.regs[i.val] else c.pcReg &&& 0xFFFFFFFE#32

/-- `x[i] <- v` for i in 0 to 14 (spec 00 R13). Register 15 is never written as data (spec 10 R23), so that case writes nothing
(notes/assumptions/10.md). -/
def Cpu.write (c : Cpu) (i : Reg) (v : Word) : Cpu :=
  if h : i.val < 15 then { c with regs := c.regs.set i.val v } else c

/-- `x[i]` of a state. -/
def State.x (s : State) (i : Reg) : Word := s.cpu.read i

/-- `PC` of the pseudocode: A + 4 (spec 40 R86). -/
def State.pc (s : State) : Word := s.cpu.pcReg &&& 0xFFFFFFFE#32

/-- The address A of the executing instruction (spec 10 R27). -/
def State.addr (s : State) : Word := instrAddr s.cpu.pcReg

/-- `x[i] <- v`. -/
def State.setX (s : State) (i : Reg) (v : Word) : State := { s with cpu := s.cpu.write i v }

/-- Write the four flags. -/
def State.setFlags (s : State) (f : Flags) : State := { s with cpu := { s.cpu with flags := f } }

/-- Write `pc_reg`. -/
def State.setPcReg (s : State) (v : Word) : State := { s with cpu := { s.cpu with pcReg := v } }

/-- Write PM (spec 10 R34). -/
def State.setPrimask (s : State) (b : Bool) : State := { s with cpu := { s.cpu with primask := b } }

/-- Write the mode (spec 10 R35). -/
def State.setMode (s : State) (m : Mode) : State := { s with cpu := { s.cpu with mode := m } }

/-- Replace memory. -/
def State.setMem (s : State) (m : Memory) : State := { s with mem := m }

/-- Set `branch_taken` (spec 10 R39). -/
def State.setBranchTaken (s : State) (b : Bool) : State := { s with branchTaken := b }

/-- Set `exit_flag` (spec 10 R40). -/
def State.setExitFlag (s : State) (b : Bool) : State := { s with exitFlag := b }

/-- Return a cycle count from Execute (spec 40 R86). -/
def State.charge (s : State) (cycles : Nat) : State := { s with stepCycles := cycles }

/-! ### Bytes of memory -/

/-- The byte at an address. -/
def Memory.read (m : Memory) (a : Nat) : Byte :=
  match m with
  | [] => Memory.unlisted
  | (k, v) :: rest => if a < k then Memory.unlisted else if a = k then v else Memory.read rest a

/-- Write a byte, keeping the canonical form. -/
def Memory.write (m : Memory) (a : Nat) (b : Byte) : Memory :=
  match m with
  | [] => if b = Memory.unlisted then [] else [(a, b)]
  | (k, v) :: rest =>
    if a < k then (if b = Memory.unlisted then (k, v) :: rest else (a, b) :: (k, v) :: rest)
    else if a = k then (if b = Memory.unlisted then rest else (a, b) :: rest)
    else (k, v) :: Memory.write rest a b

/-! ### Regions (spec 20 R45 to R48) -/

/-- The address lies in the program region (spec 20 R45). -/
def inProgram (p : Config.Params) (a : Nat) : Bool :=
  decide (Config.romBase ≤ a) && decide (a < Config.romBase + p.romSize)

/-- The address lies in the data region (spec 20 R46). -/
def inData (p : Config.Params) (a : Nat) : Bool :=
  decide (Config.ramBase ≤ a) && decide (a < Config.ramBase + p.ramSize)

/-- The address lies in one of the two regions (spec 20 R48). -/
def mapped (p : Config.Params) (a : Nat) : Bool := inProgram p a || inData p a

/-! ### Access primitives (spec 20 R55 to R57) -/

/-- The widths of an access (spec 20 R54). -/
inductive Width
  | byte | half | word
deriving DecidableEq, Repr

/-- The number of bytes of a width. -/
def Width.bytes : Width → Nat
  | .byte => 1
  | .half => 2
  | .word => 4

/-- The key of byte `k` of an access at `addr`, modulo 2^32 (spec 20 R55). -/
def byteAddr (addr : Word) (k : Nat) : Nat := (addr + BitVec.ofNat 32 k).toNat

/-- Spec 20 R53: the address is a multiple of the width. -/
def aligned (addr : Word) (w : Width) : Bool := addr.toNat % w.bytes == 0

/-- Every byte of the access lies in one of the two regions. -/
def allMapped (p : Config.Params) (addr : Word) (w : Width) : Bool :=
  (List.range w.bytes).all fun k => mapped p (byteAddr addr k)

/-- Every byte of the access lies in the data region. -/
def allData (p : Config.Params) (addr : Word) (w : Width) : Bool :=
  (List.range w.bytes).all fun k => inData p (byteAddr addr k)

/-- The little-endian value at an address, zero-extended (spec 20 R51, R55). -/
def Memory.load (m : Memory) (addr : Word) (w : Width) : Word :=
  let b := fun k => m.read (byteAddr addr k)
  match w with
  | .byte => (b 0).setWidth 32
  | .half => (b 1 ++ b 0).setWidth 32
  | .word => b 3 ++ b 2 ++ b 1 ++ b 0

/-- Byte `k` of a value: bits 8k+7 to 8k (spec 20 R56). -/
def byteOf (v : Word) (k : Nat) : Byte := v.extractLsb' (8 * k) 8

/-- The low bytes of a value written little-endian from an address (spec 20 R51, R56). -/
def Memory.store (m : Memory) (addr : Word) (w : Width) (v : Word) : Memory :=
  match w with
  | .byte => m.write (byteAddr addr 0) (byteOf v 0)
  | .half => (m.write (byteAddr addr 0) (byteOf v 0)).write (byteAddr addr 1) (byteOf v 1)
  | .word =>
    (((m.write (byteAddr addr 0) (byteOf v 0)).write (byteAddr addr 1) (byteOf v 1)).write
      (byteAddr addr 2) (byteOf v 2)).write (byteAddr addr 3) (byteOf v 3)

/-- `MemRead` (spec 20 R55). -/
def memRead (s : State) (addr : Word) (w : Width) : Except Fault Word :=
  if !aligned addr w then .error (.alignmentFault addr w.bytes)
  else if !allMapped s.params addr w then .error (.memoryFault addr w.bytes .read)
  else .ok (s.mem.load addr w)

/-- `MemWrite` (spec 20 R56). -/
def memWrite (s : State) (addr : Word) (w : Width) (v : Word) : Except Fault State :=
  if !aligned addr w then .error (.alignmentFault addr w.bytes)
  else if !allData s.params addr w then .error (.memoryFault addr w.bytes .write)
  else .ok (s.setMem (s.mem.store addr w v))

/-- `FetchHalf` (spec 20 R57). -/
def fetchHalf (s : State) (addr : Word) : Except Fault Half :=
  if !allMapped s.params addr .half then .error (.memoryFault addr 2 .fetch)
  else .ok (halfOfBytes (s.mem.read (byteAddr addr 0)) (s.mem.read (byteAddr addr 1)))

/-! ### Multi-register transfers: sequences of word accesses, each checked on its own (spec 20 R58) -/

/-- Load words from `addr` upward into the listed registers, in order (spec 44 R156, R158; 60 R238). -/
def loadRegs (rs : List Reg) (addr : Word) (s : State) : Except Fault State :=
  match rs with
  | [] => .ok s
  | r :: rest =>
    match memRead s addr .word with
    | .ok v => loadRegs rest (addr + 4#32) (s.setX r v)
    | .error f => .error f

/-- Store the listed registers as words from `addr` upward, in order (spec 44 R155, R157). -/
def storeRegs (rs : List Reg) (addr : Word) (s : State) : Except Fault State :=
  match rs with
  | [] => .ok s
  | r :: rest =>
    match memWrite s addr .word (s.x r) with
    | .ok s' => storeRegs rest (addr + 4#32) s'
    | .error f => .error f

/-! ### Fatal conditions: the whole of what the machine does on an error (spec 60 R231 to R236) -/

/-- `raise Fatal(MalformedInstruction, {A, hw1, hw2})` for an instruction whose words are known (spec 40 R93). -/
def raiseMalformed (i : Instr) (s : State) : Result :=
  .fault (.malformedInstruction s.addr (encode i).1 (encode i).2)

/-- The admission of a SYSTEM_EXT row (spec 30 R79): without SYSTEM_EXT it is refused as MalformedInstruction. -/
def whenSystemExt (i : Instr) (s : State) (k : Result) : Result :=
  if s.params.systemExt then k else raiseMalformed i s

/-! ### Branch primitives (spec 40 R106, R107) and the exception return (spec 60 R238) -/

/-- `BranchTo(T)` (spec 40 R106). -/
def branchTo (target : Word) (s : State) : State :=
  (s.setPcReg ((target &&& 0xFFFFFFFE#32) ||| 1#32)).setBranchTaken true

/-- EXCRET: the cycles an exception return adds (spec 70 R257). -/
def excRetCycles : Nat := 8

/-- The registers of the first six words of the exception frame, in frame order (spec 60 R238). -/
def frameRegs : List Reg := [0, 1, 2, 3, 12, 14]

/-- T[31:28] = 1111: an exception-return value (spec 60 R237). -/
def isExcReturn (target : Word) : Bool := target.extractLsb' 28 4 == 0xF#4

/-- `ExceptionReturn(T)` (spec 60 R238): the frame is popped from SP; T itself is not read further. -/
def exceptionReturn (s : State) : Result :=
  let frame := s.x sp
  orFault (loadRegs frameRegs frame s) fun s1 =>
  orFault (memRead s1 (frame + 24#32) .word) fun ret =>
  orFault (memRead s1 (frame + 28#32) .word) fun psr =>
    let s2 := ((s1.setX sp (frame + 32#32)).setFlags (Flags.ofWord psr)).setMode .thread
    if psr.getLsbD 24 then .next ((branchTo ret s2).charge (s2.stepCycles + excRetCycles))
    else .fault (.modeViolation ((ret &&& 0xFFFFFFFE#32) + 4#32))

/-- `BXWritePC(T)` (spec 40 R107); the sentinel comes first, for `BX pc` too (DESIGN CHOICE, unsafe, notes/assumptions/17.md). -/
def bxWritePC (target : Word) (s : State) : Result :=
  if isExcReturn target then exceptionReturn s
  else if target.getLsbD 0 then .next (branchTo target s)
  else .fault (.unsupportedInterworking s.addr target)

end Sys2Proof.Machine
end

