-- ==== Sys2Proof/Machine/Policy.lean ====
section
/-! DEFINITION. A method of the scheme as a function of the scheme's private state and its arguments (spec 48 R204, 49 R205, R213). -/

namespace Sys2Proof.Machine

/-- The statistics a scheme reads (spec 49 R213). -/
structure Stats where
  periods : List Period
  totals : Totals
  elapsed : Nat
  time : Quantity
  power : Power
deriving DecidableEq, Repr

/-- The statistics of a loop state. -/
def Loop.stats (l : Loop) : Stats :=
  { periods := l.periods, totals := l.totals, elapsed := l.elapsed, time := l.time, power := l.power }

/-- A call of a method, with the arguments the table of spec 49 R205 gives it. -/
inductive Call
  | executeInstruction (cpu : Cpu) (cycles : Nat)
  | isActive (cpu : Cpu) (stats : Stats)
  | willBackup (cpu : Cpu) (stats : Stats)
  | backup (cpu : Cpu)
  | restore (cpu : Cpu)
  | estimateProgress (period : Period)
  | clockFrequency
  | battery
deriving DecidableEq, Repr

/-- What a scheme owns (spec 48 R192, R204): the snapshot slot, the cells of its private state, the battery. -/
structure Owned where
  slot : Option Cpu
  memo : List Quantity
  battery : Battery
deriving DecidableEq, Repr

/-- What a method gives: its result and the new private state (spec 48 R204). Each method uses the components that its row of
spec 49 R205 names, as in `Method`. -/
structure Reply where
  answer : Bool
  cycles : Nat
  energy : Quantity
  value : Quantity
  memo : List Quantity
deriving DecidableEq, Repr, Inhabited

/-- The methods of scheme `k` of those that are not written out: free functions of what the scheme owns and the call's arguments, no
body (DESIGN CHOICE, safe, notes/assumptions/3.md). -/
opaque otherReply (k : Nat) (o : Owned) (c : Call) : Reply

/-! ### Methods that are written out -/

/-- The CPU State among the arguments of a call. -/
def Call.cpu? : Call → Option Cpu
  | .executeInstruction cpu _ => some cpu
  | .isActive cpu _ => some cpu
  | .willBackup cpu _ => some cpu
  | .backup cpu => some cpu
  | .restore cpu => some cpu
  | .estimateProgress _ => none
  | .clockFrequency => none
  | .battery => none

/-- The statistics among the arguments of a call. -/
def Call.stats? : Call → Option Stats
  | .executeInstruction _ _ => none
  | .isActive _ stats => some stats
  | .willBackup _ stats => some stats
  | .backup _ => none
  | .restore _ => none
  | .estimateProgress _ => none
  | .clockFrequency => none
  | .battery => none

/-- The cycles among the arguments of a call. -/
def Call.cycles? : Call → Option Nat
  | .executeInstruction _ cycles => some cycles
  | .isActive _ _ => none
  | .willBackup _ _ => none
  | .backup _ => none
  | .restore _ => none
  | .estimateProgress _ => none
  | .clockFrequency => none
  | .battery => none

/-- The period records among the arguments of a call, the last one first. -/
def Call.records : Call → List Period
  | .executeInstruction _ _ => []
  | .isActive _ stats => stats.periods.reverse
  | .willBackup _ stats => stats.periods.reverse
  | .backup _ => []
  | .restore _ => []
  | .estimateProgress p => [p]
  | .clockFrequency => []
  | .battery => []

/-- A truth value as a number. -/
def ofBool (b : Bool) : Quantity := if b then 1 else 0

/-- A field of the CPU State as a number. -/
def Cpu.value (c : Cpu) : CpuField → Quantity
  | .x i => c.regs[i].toNat
  | .pcReg => c.pcReg.toNat
  | .n => ofBool c.flags.n
  | .z => ofBool c.flags.z
  | .c => ofBool c.flags.c
  | .v => ofBool c.flags.v
  | .primask => ofBool c.primask
  | .mode => ofBool (decide (c.mode = .handler))
  | .pending => c.pending.toNat

/-- A field of a period record as a number; a ratio that is not set reads as 0. -/
def Period.value (p : Period) : PeriodField → Quantity
  | .cycleStart => p.cycleStart
  | .instructions => p.instructions
  | .instructionCycles => p.instructionCycles
  | .backups => p.backups
  | .backupCycles => p.backupCycles
  | .restoreCycles => p.restoreCycles
  | .energyInstructions => p.energyInstructions
  | .energyBackup => p.energyBackup
  | .energyRestore => p.energyRestore
  | .fpEnergy => p.fpEnergy
  | .fpCycles => p.fpCycles
  | .energyTotal => p.energyTotal
  | .progress => p.progress.getD 0
  | .estimatedProgress => p.estimatedProgress.getD 0

/-- A value read from an argument; where the call has no such argument, 0. -/
def readFrom {α : Type} (a : Option α) (read : α → Quantity) : Quantity :=
  match a with
  | some v => read v
  | none => 0

/-- What an item reads. -/
def Item.read (i : Item) (o : Owned) (c : Call) : Quantity :=
  match i with
  | .memo k => o.memo.getD k 0
  | .slotFull => ofBool o.slot.isSome
  | .stored => o.battery.stored
  | .capacitance => o.battery.capacitance
  | .cycles => readFrom c.cycles? fun n => n
  | .cpu f => readFrom c.cpu? fun cpu => cpu.value f
  | .elapsed => readFrom c.stats? fun st => st.elapsed
  | .time => readFrom c.stats? fun st => st.time
  | .active => readFrom c.stats? fun st => ofBool (decide (st.power = .active))
  | .energyHarvested => readFrom c.stats? fun st => st.totals.energyHarvested
  | .finalEnergyStored => readFrom c.stats? fun st => st.totals.finalEnergyStored.getD 0
  | .periods => readFrom c.stats? fun st => st.periods.length
  | .period k f => readFrom c.records[k]? fun p => p.value f

/-- The value of an expression. -/
def Expr.eval (e : Expr) (o : Owned) (c : Call) : Quantity :=
  match e with
  | .const q => q
  | .item i => i.read o c
  | .add a b => a.eval o c + b.eval o c
  | .sub a b => a.eval o c - b.eval o c
  | .mul a b => a.eval o c * b.eval o c
  | .div a b => a.eval o c / b.eval o c
  | .mod a b => a.eval o c - b.eval o c * (a.eval o c / b.eval o c).floor
  | .le a b => ofBool (decide (a.eval o c ≤ b.eval o c))
  | .cond p a b => if p.eval o c = 0 then b.eval o c else a.eval o c

/-- The reply of a method that is written out. -/
def Method.reply (m : Method) (o : Owned) (c : Call) : Reply :=
  { answer := decide (m.answer.eval o c ≠ 0)
    cycles := (m.cycles.eval o c).floor.toNat
    energy := m.energy.eval o c
    value := m.value.eval o c
    memo := (m.memo.map fun e => e.eval o c) ++ o.memo.drop m.memo.length }

/-- The method a call calls. -/
def Program.method (p : Program) (c : Call) : Method :=
  match c with
  | .executeInstruction _ _ => p.executeInstruction
  | .isActive _ _ => p.isActive
  | .willBackup _ _ => p.willBackup
  | .backup _ => p.backup
  | .restore _ => p.restore
  | .estimateProgress _ => p.estimateProgress
  | .clockFrequency => p.clockFrequency
  | .battery => p.battery

/-! ### The call -/

/-- What a scheme's method gives for a call (spec 48 R204). -/
def Policy.reply (p : Policy) (o : Owned) (c : Call) : Reply :=
  match p with
  | .program q => (q.method c).reply o c
  | .other k => otherReply k o c

end Sys2Proof.Machine
end

