-- ==== Sys2Proof/Machine/Checkpoint.lean ====
section
/-! DEFINITION. The checkpoint engine (spec 48) and the methods of the scheme as the loop calls them (spec 49 R205). -/

namespace Sys2Proof.Machine

/-! ### Calls of the scheme (spec 48 R204, 49 R205) -/

/-- The statistics a scheme reads (spec 49 R213). -/
def State.stats (s : State) : Stats := s.loop.stats

/-- What the scheme owns. -/
def State.owned (s : State) : Owned := { slot := s.scheme.slot, memo := s.scheme.memo, battery := s.battery }

/-- What the scheme gives for a call. -/
def State.reply (s : State) (c : Call) : Reply := s.scheme.policy.reply s.owned c

/-- Every method may update the private state (spec 49 R205). -/
def State.remember (s : State) (r : Reply) : State := { s with scheme := { s.scheme with memo := r.memo } }

/-- A method that removes energy has removed it. -/
def State.draw (s : State) (asked : Quantity) : State := { s with battery := s.battery.draw s.num asked }

/-- `before - after`: the energy a call removed (spec 48 R201, 49 R215 `Metered`). -/
def removed (before after : State) : Quantity :=
  before.num.sub before.battery.energyStored after.battery.energyStored

/-- `scheme.is_active(cpu, stats)`. -/
def State.isActive (s : State) : Bool × State :=
  let r := s.reply (.isActive s.cpu s.stats)
  (r.answer, s.remember r)

/-- `scheme.will_backup(cpu, stats)`. -/
def State.willBackup (s : State) : Bool × State :=
  let r := s.reply (.willBackup s.cpu s.stats)
  (r.answer, s.remember r)

/-- `scheme.execute_instruction(cpu, cycles)`, with the cycles of the Step just run. -/
def State.executeInstruction (s : State) : State :=
  let r := s.reply (.executeInstruction s.cpu s.stepCycles)
  (s.remember r).draw r.energy

/-- `scheme.estimate_progress(period)`. -/
def State.estimateProgress (p : Period) (s : State) : Quantity × State :=
  let r := s.reply (.estimateProgress p)
  (r.value, s.remember r)

/-- `scheme.clock_frequency()`: the constant, and like every method a new private state. -/
def State.clockFrequency (s : State) : Quantity × State := (s.scheme.clockFrequency, s.remember (s.reply .clockFrequency))

/-- `scheme.battery()`: the handle is the field `battery` of the state it leaves; like every method it gives a new private state. -/
def State.askBattery (s : State) : State := s.remember (s.reply .battery)

/-- The private state after a use of the handle. -/
def State.memoAfterUse (s : State) : List Quantity :=
  match s.params.handle with
  | .once => s.scheme.memo
  | .everyUse => (s.reply .battery).memo

/-- A use of the battery handle by the loop, which calls `battery()` for it or has it from the loop's initialization
(DESIGN CHOICE, unsafe, notes/assumptions/15.md). -/
def State.useBattery (s : State) : State := { s with scheme := { s.scheme with memo := s.memoAfterUse } }

/-- `Metered(call)`: the result of the call and the energy it removed (spec 49 R215). -/
def State.metered {α : Type} (call : State → α × State) (s : State) : (α × Quantity) × State :=
  let s0 := s.useBattery
  let r := call s0
  ((r.1, removed s0 r.2), r.2.useBattery)

/-! ### Backup and restore (spec 48 R194, R195) -/

/-- The slot after `backup(cpu)`: the CPU State is copied over what it held (spec 48 R194). -/
def Scheme.backup (sch : Scheme) (cpu : Cpu) : Scheme := { sch with slot := some cpu }

/-- `restore(cpu)`: a full slot is copied into the CPU State and emptied; an empty one changes nothing (spec 48 R195). -/
def Scheme.restore (sch : Scheme) (cpu : Cpu) : Scheme × Cpu :=
  match sch.slot with
  | some saved => ({ sch with slot := none }, saved)
  | none => (sch, cpu)

/-- `scheme.backup(cpu)`: its cycles, and the state with the slot filled and the energy removed. -/
def State.backup (s : State) : Nat × State :=
  let r := s.reply (.backup s.cpu)
  let s1 := s.remember r
  (r.cycles, { s1 with scheme := s1.scheme.backup s1.cpu }.draw r.energy)

/-- `scheme.restore(cpu)`: its cycles, and the state with the CPU State reinstated and the energy removed. -/
def State.restore (s : State) : Nat × State :=
  let r := s.reply (.restore s.cpu)
  let s1 := s.remember r
  let back := s1.scheme.restore s1.cpu
  (r.cycles, { s1 with scheme := back.1, cpu := back.2 }.draw r.energy)

/-- What spec 48 R202 fixes of the reference scheme: backup and restore cost no cycles and remove no energy. -/
abbrev Program.reference (p : Program) : Prop :=
  p.backup.cycles = .const 0 ∧ p.backup.energy = .const 0 ∧ p.restore.cycles = .const 0 ∧ p.restore.energy = .const 0

end Sys2Proof.Machine
end

