-- ==== Sys2Proof/Machine/Operands.lean ====
section
/-! DEFINITION. The operand forms of spec 30 R69 and R71: immediates as 32-bit values, addresses, register lists and branch
offsets. -/

namespace Sys2Proof.Machine

/-! ### Extension (spec 00 R12) -/

/-- `zext_n`. -/
def zext {n : Nat} (v : BitVec n) : Word := v.setWidth 32

/-- `sext_n`. -/
def sext {n : Nat} (v : BitVec n) : Word := v.signExtend 32

/-- `Align(v, 4)` (spec 00 R16). -/
def align4 (v : Word) : Word := v &&& 0xFFFFFFFC#32

/-! ### Immediates (spec 30 R69) -/

/-- `imm:'00'`, zero-extended: the word-scaled offsets. -/
def wordScaled {n : Nat} (imm : BitVec n) : Word := zext (imm ++ 0#2)

/-- `imm:'0'`, zero-extended: the halfword-scaled offsets. -/
def halfScaled {n : Nat} (imm : BitVec n) : Word := zext (imm ++ 0#1)

/-- The amount of LSRS and ASRS (imm): imm5 = 0 means 32. -/
def rightShiftAmount (imm5 : BitVec 5) : Nat := if imm5 = 0#5 then 32 else imm5.toNat

/-- The amount of a shift by register: the low byte of Rm (spec 42 section 2). -/
def shiftAmount (v : Word) : Nat := (v.extractLsb' 0 8).toNat

/-- `sext(imm:'0')`: the offsets of B<c> and B (spec 30 R70). -/
def branchOffset {n : Nat} (imm : BitVec n) : Word := sext (imm ++ 0#1)

/-- The offset of BL: `sext_25(S:I1:I2:imm10:imm11:'0')` with I = NOT(J EOR S) (spec 30 R69). -/
def blOffset (s : BitVec 1) (imm10 : BitVec 10) (j1 j2 : BitVec 1) (imm11 : BitVec 11) : Word :=
  sext (s ++ ~~~(j1 ^^^ s) ++ ~~~(j2 ^^^ s) ++ imm10 ++ imm11 ++ 0#1)

/-! ### Addresses (spec 43) -/

/-- `x[Rn] + x[Rm]`. -/
def regOffsetAddr (s : State) (rn rm : LowReg) : Word := s.x (lo rn) + s.x (lo rm)

/-- `x[Rn] + zext(imm5:'00')`. -/
def wordImmAddr (s : State) (rn : LowReg) (imm5 : BitVec 5) : Word := s.x (lo rn) + wordScaled imm5

/-- `x[Rn] + zext(imm5:'0')`. -/
def halfImmAddr (s : State) (rn : LowReg) (imm5 : BitVec 5) : Word := s.x (lo rn) + halfScaled imm5

/-- `x[Rn] + zext(imm5)`. -/
def byteImmAddr (s : State) (rn : LowReg) (imm5 : BitVec 5) : Word := s.x (lo rn) + zext imm5

/-- `x[13] + zext(imm8:'00')`. -/
def spAddr (s : State) (imm8 : BitVec 8) : Word := s.x sp + wordScaled imm8

/-- `Align(PC, 4) + zext(imm8:'00')`. -/
def pcAddr (s : State) (imm8 : BitVec 8) : Word := align4 s.pc + wordScaled imm8

/-! ### Register lists (spec 30 R71, 44) -/

/-- The low registers in increasing order. -/
def lowRegs : List LowReg := [0, 1, 2, 3, 4, 5, 6, 7]

/-- The registers of a list field, in increasing order. -/
def listRegs (list : BitVec 8) : List Reg := (lowRegs.filter fun r => list.getLsbD r.val).map lo

/-- The registers of PUSH: M adds LR. -/
def pushRegs (m : Bool) (list : BitVec 8) : List Reg := listRegs list ++ (if m then [lr] else [])

/-- `4 * n` as a word. -/
def wordsSize (n : Nat) : Word := BitVec.ofNat 32 (4 * n)

end Sys2Proof.Machine
end

