-- ==== Sys2Proof/Machine/Cycles.lean ====
section
/-! DEFINITION. The cycle costs of spec 70 R257, and the tails shared by many meanings: write a result, its flags and its cost. -/

namespace Sys2Proof.Machine

/-- The classes of spec 70 R257. EXCRET, which is added to another class, is `excRetCycles` of Ops.lean. -/
inductive CycleClass
  | alu | mul | loadStore
  /-- n = the number of registers transferred. -/
  | multiple (n : Nat)
  /-- n counts PC. -/
  | popPc (n : Nat)
  | b | bcondTaken | bcondNotTaken | bl | bx | blx | pcWrite | exit | hint | system
deriving DecidableEq, Repr

/-- The cost of a class (spec 70 R257). -/
def CycleClass.cycles : CycleClass → Nat
  | .alu => 1
  | .mul => 1
  | .loadStore => 2
  | .multiple n => 1 + n
  | .popPc n => 1 + n + 1
  | .b => 2
  | .bcondTaken => 2
  | .bcondNotTaken => 1
  | .bl => 3
  | .bx => 2
  | .blx => 3
  | .pcWrite => 2
  | .exit => 1
  | .hint => 1
  | .system => 3

/-- Return the cost of a class from Execute. -/
def State.cost (s : State) (c : CycleClass) : State := s.charge c.cycles

/-- An addition written to a register with all four flags (spec 41, 42). -/
def writeAdd (rd : Reg) (r : AddOut) (s : State) : Result :=
  .next (((s.setX rd r.result).setFlags (Flags.ofAdd r)).cost .alu)

/-- An addition of which only the flags are kept (spec 40 R103). -/
def compareAdd (r : AddOut) (s : State) : Result :=
  .next ((s.setFlags (Flags.ofAdd r)).cost .alu)

/-- A result written to a register with N and Z (spec 40 R104). -/
def writeLogical (rd : Reg) (result : Word) (c : CycleClass) (s : State) : Result :=
  .next (((s.setX rd result).setFlags (s.cpu.flags.setNZ result)).cost c)

/-- A shift written to a register with N, Z and C (spec 41, 42). -/
def writeShift (rd : Reg) (r : Word × Bool) (s : State) : Result :=
  .next (((s.setX rd r.1).setFlags (s.cpu.flags.setNZC r.1 r.2)).cost .alu)

/-- A result written to a register, no flag. -/
def writePlain (rd : Reg) (result : Word) (c : CycleClass) (s : State) : Result :=
  .next ((s.setX rd result).cost c)

/-- A result written to a register that may be 15, where it is a branch without interworking check (spec 42 R135, R137). -/
def writeOrBranch (rd : Reg) (result : Word) (s : State) : Result :=
  if rd.val = 15 then .next ((branchTo result s).cost .pcWrite)
  else .next ((s.setX rd result).cost .alu)

/-- A load into a register (spec 43). -/
def loadInto (rt : Reg) (addr : Word) (w : Width) (extend : Word → Word) (s : State) : Result :=
  orFault (memRead s addr w) fun v => .next ((s.setX rt (extend v)).cost .loadStore)

/-- A store of a register (spec 43). -/
def storeFrom (rt : Reg) (addr : Word) (w : Width) (s : State) : Result :=
  orFault (memWrite s addr w (s.x rt)) fun s' => .next (s'.cost .loadStore)

end Sys2Proof.Machine
end

