-- ==== Sys2Proof/Machine/Branch.lean ====
section
/-! DEFINITION. Spec 45: B<c>, B, BL, BX, BLX. -/

namespace Sys2Proof.Machine

/-- Spec 45 R159. -/
def execBCond (cond : Cond) (imm8 : BitVec 8) (s : State) : Result :=
  if conditionPassed cond s.cpu.flags then
    .next ((branchTo (s.pc + branchOffset imm8) s).cost .bcondTaken)
  else .next (s.cost .bcondNotTaken)

/-- Spec 45 R160. -/
def execB (imm11 : BitVec 11) (s : State) : Result :=
  .next ((branchTo (s.pc + branchOffset imm11) s).cost .b)

/-- Spec 45 R161. -/
def execBl (sBit : BitVec 1) (imm10 : BitVec 10) (j1 j2 : BitVec 1) (imm11 : BitVec 11) (s : State) : Result :=
  .next ((branchTo (s.pc + blOffset sBit imm10 j1 j2 imm11) (s.setX lr (s.pc ||| 1#32))).cost .bl)

/-- Spec 45 R162; an exception return adds EXCRET to the cost of BX. A Corner case of R162 says that `BX pc` always raises
UnsupportedInterworking; where A + 4 has top nibble 1111, as 20 R47 allows, the pseudocodes of R162 and 40 R107 with 60 R237 give the
exception return, and the model follows them (DESIGN CHOICE, unsafe, notes/assumptions/17.md). -/
def execBx (rm : Reg) (s : State) : Result :=
  bxWritePC (s.x rm) (s.cost .bx)

/-- Spec 45 R163: the target is read before LR is written, and the sentinel is not recognized. -/
def execBlx (rm : Reg) (s : State) : Result :=
  let target := s.x rm
  let s1 := s.setX lr ((s.pc - 2#32) ||| 1#32)
  if target.getLsbD 0 then .next ((branchTo target s1).cost .blx)
  else .fault (.unsupportedInterworking s.addr target)

end Sys2Proof.Machine
end

