-- ==== Sys2Proof/Machine/DataProcessing.lean ====
section
/-! DEFINITION. Spec 42: the sixteen T_DP operations and the high-register ADD, CMP and MOV. -/

namespace Sys2Proof.Machine

/-- Spec 42 R119. -/
def execAnds (rdn rm : LowReg) (s : State) : Result :=
  writeLogical (lo rdn) (s.x (lo rdn) &&& s.x (lo rm)) .alu s

/-- Spec 42 R120. -/
def execEors (rdn rm : LowReg) (s : State) : Result :=
  writeLogical (lo rdn) (s.x (lo rdn) ^^^ s.x (lo rm)) .alu s

/-- Spec 42 R121. -/
def execOrrs (rdn rm : LowReg) (s : State) : Result :=
  writeLogical (lo rdn) (s.x (lo rdn) ||| s.x (lo rm)) .alu s

/-- Spec 42 R122. -/
def execBics (rdn rm : LowReg) (s : State) : Result :=
  writeLogical (lo rdn) (s.x (lo rdn) &&& ~~~(s.x (lo rm))) .alu s

/-- Spec 42 R123. -/
def execMvns (rd rm : LowReg) (s : State) : Result :=
  writeLogical (lo rd) (~~~(s.x (lo rm))) .alu s

/-- Spec 42 R124: N and Z only, no register. -/
def execTst (rn rm : LowReg) (s : State) : Result :=
  .next ((s.setFlags (s.cpu.flags.setNZ (s.x (lo rn) &&& s.x (lo rm)))).cost .alu)

/-- Spec 42 R125. -/
def execLslsReg (rdn rm : LowReg) (s : State) : Result :=
  writeShift (lo rdn) (shiftC (s.x (lo rdn)) .lsl (shiftAmount (s.x (lo rm))) s.cpu.flags.c) s

/-- Spec 42 R126. -/
def execLsrsReg (rdn rm : LowReg) (s : State) : Result :=
  writeShift (lo rdn) (shiftC (s.x (lo rdn)) .lsr (shiftAmount (s.x (lo rm))) s.cpu.flags.c) s

/-- Spec 42 R127. -/
def execAsrsReg (rdn rm : LowReg) (s : State) : Result :=
  writeShift (lo rdn) (shiftC (s.x (lo rdn)) .asr (shiftAmount (s.x (lo rm))) s.cpu.flags.c) s

/-- Spec 42 R128. -/
def execRors (rdn rm : LowReg) (s : State) : Result :=
  writeShift (lo rdn) (shiftC (s.x (lo rdn)) .ror (shiftAmount (s.x (lo rm))) s.cpu.flags.c) s

/-- Spec 42 R129. -/
def execAdcs (rdn rm : LowReg) (s : State) : Result :=
  writeAdd (lo rdn) (addWithCarry (s.x (lo rdn)) (s.x (lo rm)) s.cpu.flags.c) s

/-- Spec 42 R130. -/
def execSbcs (rdn rm : LowReg) (s : State) : Result :=
  writeAdd (lo rdn) (addWithCarry (s.x (lo rdn)) (~~~(s.x (lo rm))) s.cpu.flags.c) s

/-- Spec 42 R131. -/
def execRsbs (rd rn : LowReg) (s : State) : Result :=
  writeAdd (lo rd) (addWithCarry (~~~(s.x (lo rn))) 0#32 true) s

/-- Spec 42 R132. -/
def execCmpReg (rn rm : LowReg) (s : State) : Result :=
  compareAdd (addWithCarry (s.x (lo rn)) (~~~(s.x (lo rm))) true) s

/-- Spec 42 R133. -/
def execCmn (rn rm : LowReg) (s : State) : Result :=
  compareAdd (addWithCarry (s.x (lo rn)) (s.x (lo rm)) false) s

/-- Spec 42 R134. -/
def execMuls (rdm rn : LowReg) (s : State) : Result :=
  writeLogical (lo rdm) (s.x (lo rn) * s.x (lo rdm)) .mul s

/-- Spec 42 R135. -/
def execAddHi (rdn rm : Reg) (s : State) : Result :=
  writeOrBranch rdn (s.x rdn + s.x rm) s

/-- Spec 42 R136. -/
def execCmpHi (rn rm : Reg) (s : State) : Result :=
  compareAdd (addWithCarry (s.x rn) (~~~(s.x rm)) true) s

/-- Spec 42 R137. -/
def execMovHi (rd rm : Reg) (s : State) : Result :=
  writeOrBranch rd (s.x rm) s

end Sys2Proof.Machine
end

