-- ==== Sys2Proof/Machine/LoadStore.lean ====
section
/-! DEFINITION. Spec 43: single loads and stores. -/

namespace Sys2Proof.Machine

/-- A loaded word or zero-extended value is written as read (spec 20 R55). -/
def asRead (v : Word) : Word := v

/-- `sext_8` of a loaded byte (spec 43 R142). -/
def signedByte (v : Word) : Word := sext (v.extractLsb' 0 8)

/-- `sext_16` of a loaded halfword (spec 43 R146). -/
def signedHalf (v : Word) : Word := sext (v.extractLsb' 0 16)

/-- Spec 43 R138. -/
def execLdrLit (rt : LowReg) (imm8 : BitVec 8) (s : State) : Result :=
  loadInto (lo rt) (pcAddr s imm8) .word asRead s

/-- Spec 43 R139. -/
def execStrReg (rt rn rm : LowReg) (s : State) : Result :=
  storeFrom (lo rt) (regOffsetAddr s rn rm) .word s

/-- Spec 43 R140. -/
def execStrhReg (rt rn rm : LowReg) (s : State) : Result :=
  storeFrom (lo rt) (regOffsetAddr s rn rm) .half s

/-- Spec 43 R141. -/
def execStrbReg (rt rn rm : LowReg) (s : State) : Result :=
  storeFrom (lo rt) (regOffsetAddr s rn rm) .byte s

/-- Spec 43 R142. -/
def execLdrsbReg (rt rn rm : LowReg) (s : State) : Result :=
  loadInto (lo rt) (regOffsetAddr s rn rm) .byte signedByte s

/-- Spec 43 R143. -/
def execLdrReg (rt rn rm : LowReg) (s : State) : Result :=
  loadInto (lo rt) (regOffsetAddr s rn rm) .word asRead s

/-- Spec 43 R144. -/
def execLdrhReg (rt rn rm : LowReg) (s : State) : Result :=
  loadInto (lo rt) (regOffsetAddr s rn rm) .half asRead s

/-- Spec 43 R145. -/
def execLdrbReg (rt rn rm : LowReg) (s : State) : Result :=
  loadInto (lo rt) (regOffsetAddr s rn rm) .byte asRead s

/-- Spec 43 R146. -/
def execLdrshReg (rt rn rm : LowReg) (s : State) : Result :=
  loadInto (lo rt) (regOffsetAddr s rn rm) .half signedHalf s

/-- Spec 43 R147. -/
def execStrImm (rt rn : LowReg) (imm5 : BitVec 5) (s : State) : Result :=
  storeFrom (lo rt) (wordImmAddr s rn imm5) .word s

/-- Spec 43 R148. -/
def execLdrImm (rt rn : LowReg) (imm5 : BitVec 5) (s : State) : Result :=
  loadInto (lo rt) (wordImmAddr s rn imm5) .word asRead s

/-- Spec 43 R149. -/
def execStrbImm (rt rn : LowReg) (imm5 : BitVec 5) (s : State) : Result :=
  storeFrom (lo rt) (byteImmAddr s rn imm5) .byte s

/-- Spec 43 R150. -/
def execLdrbImm (rt rn : LowReg) (imm5 : BitVec 5) (s : State) : Result :=
  loadInto (lo rt) (byteImmAddr s rn imm5) .byte asRead s

/-- Spec 43 R151. -/
def execStrhImm (rt rn : LowReg) (imm5 : BitVec 5) (s : State) : Result :=
  storeFrom (lo rt) (halfImmAddr s rn imm5) .half s

/-- Spec 43 R152. -/
def execLdrhImm (rt rn : LowReg) (imm5 : BitVec 5) (s : State) : Result :=
  loadInto (lo rt) (halfImmAddr s rn imm5) .half asRead s

/-- Spec 43 R153. -/
def execStrSp (rt : LowReg) (imm8 : BitVec 8) (s : State) : Result :=
  storeFrom (lo rt) (spAddr s imm8) .word s

/-- Spec 43 R154. -/
def execLdrSp (rt : LowReg) (imm8 : BitVec 8) (s : State) : Result :=
  loadInto (lo rt) (spAddr s imm8) .word asRead s

end Sys2Proof.Machine
end

