-- ==== Sys2Proof/Machine/LoadStoreMultiple.lean ====
section
/-! DEFINITION. Spec 44: STM, LDM, PUSH, POP. -/

namespace Sys2Proof.Machine

/-- Spec 44 R155: the writeback always happens. -/
def execStm (rn : LowReg) (list : BitVec 8) (s : State) : Result :=
  let rs := listRegs list
  let base := s.x (lo rn)
  orFault (storeRegs rs base s) fun s1 =>
    .next ((s1.setX (lo rn) (base + wordsSize rs.length)).cost (.multiple rs.length))

/-- Spec 44 R156: the writeback happens only when Rn is not in the list. -/
def execLdm (rn : LowReg) (list : BitVec 8) (s : State) : Result :=
  let rs := listRegs list
  let base := s.x (lo rn)
  orFault (loadRegs rs base s) fun s1 =>
    let s2 := if list.getLsbD rn.val then s1 else s1.setX (lo rn) (base + wordsSize rs.length)
    .next (s2.cost (.multiple rs.length))

/-- A PUSH from this state faults even where all its words are writable (44 R157, 70 R256; `PushAtZero`, notes/assumptions/16.md). -/
abbrev pushFaultsAtZero (s : State) : Prop := s.x sp = 0#32 ∧ s.params.pushAtZero = .faults

/-- Spec 44 R157. Its Faults line and 70 R256 say that a PUSH at SP = 0 faults in every configuration. Where the data region ends at 2^32, as
20 R47 allows, its pseudocode stores without a fault, and 20 R59 and 60 R231 admit no other check; the parameter `PushAtZero` says which,
and the fault names the lowest address (DESIGN CHOICE, safe, notes/assumptions/16.md). -/
def execPush (m : Bool) (list : BitVec 8) (s : State) : Result :=
  let rs := pushRegs m list
  let lowered := s.x sp - wordsSize rs.length
  orFault (storeRegs rs lowered s) fun s1 =>
    if pushFaultsAtZero s then .fault (.memoryFault lowered 4 .write)
    else .next ((s1.setX sp lowered).cost (.multiple rs.length))

/-- Spec 44 R158: SP is raised before the PC is written. -/
def execPop (p : Bool) (list : BitVec 8) (s : State) : Result :=
  let rs := listRegs list
  let base := s.x sp
  orFault (loadRegs rs base s) fun s1 =>
    if p then
      orFault (memRead s1 (base + wordsSize rs.length) .word) fun target =>
        bxWritePC target
          ((s1.setX sp (base + wordsSize (rs.length + 1))).cost (.popPc (rs.length + 1)))
    else .next ((s1.setX sp (base + wordsSize rs.length)).cost (.multiple rs.length))

end Sys2Proof.Machine
end

