-- ==== Sys2Proof/Machine/MiscSystem.lean ====
section
/-! DEFINITION. Spec 46: PC and SP arithmetic, extend, reverse, the exit sentinel, hints, system instructions, and the
always refused rows. -/

namespace Sys2Proof.Machine

/-! ### PC- and SP-relative arithmetic -/

/-- Spec 46 R164. -/
def execAdr (rd : LowReg) (imm8 : BitVec 8) (s : State) : Result :=
  writePlain (lo rd) (pcAddr s imm8) .alu s

/-- Spec 46 R165. -/
def execAddSpRd (rd : LowReg) (imm8 : BitVec 8) (s : State) : Result :=
  writePlain (lo rd) (spAddr s imm8) .alu s

/-- Spec 46 R166. -/
def execAddSpImm7 (imm7 : BitVec 7) (s : State) : Result :=
  writePlain sp (s.x sp + wordScaled imm7) .alu s

/-- Spec 46 R167. -/
def execSubSpImm7 (imm7 : BitVec 7) (s : State) : Result :=
  writePlain sp (s.x sp - wordScaled imm7) .alu s

/-! ### Extend and reverse -/

/-- Spec 46 R168. -/
def execSxth (rd rm : LowReg) (s : State) : Result :=
  writePlain (lo rd) (sext ((s.x (lo rm)).extractLsb' 0 16)) .alu s

/-- Spec 46 R169. -/
def execSxtb (rd rm : LowReg) (s : State) : Result :=
  writePlain (lo rd) (sext ((s.x (lo rm)).extractLsb' 0 8)) .alu s

/-- Spec 46 R170. -/
def execUxth (rd rm : LowReg) (s : State) : Result :=
  writePlain (lo rd) (zext ((s.x (lo rm)).extractLsb' 0 16)) .alu s

/-- Spec 46 R171. -/
def execUxtb (rd rm : LowReg) (s : State) : Result :=
  writePlain (lo rd) (zext ((s.x (lo rm)).extractLsb' 0 8)) .alu s

/-- The four bytes of a word in reverse order (spec 46 R172). -/
def reverseBytes (v : Word) : Word := byteOf v 0 ++ byteOf v 1 ++ byteOf v 2 ++ byteOf v 3

/-- The bytes of each halfword in reverse order (spec 46 R173). -/
def reverseInHalves (v : Word) : Word := byteOf v 2 ++ byteOf v 3 ++ byteOf v 0 ++ byteOf v 1

/-- The bytes of the low halfword in reverse order, sign-extended (spec 46 R174). -/
def reverseLowHalf (v : Word) : Word := sext (byteOf v 0 ++ byteOf v 1)

/-- Spec 46 R172. -/
def execRev (rd rm : LowReg) (s : State) : Result :=
  writePlain (lo rd) (reverseBytes (s.x (lo rm))) .alu s

/-- Spec 46 R173. -/
def execRev16 (rd rm : LowReg) (s : State) : Result :=
  writePlain (lo rd) (reverseInHalves (s.x (lo rm))) .alu s

/-- Spec 46 R174. -/
def execRevsh (rd rm : LowReg) (s : State) : Result :=
  writePlain (lo rd) (reverseLowHalf (s.x (lo rm))) .alu s

/-! ### The exit sentinel -/

/-- Spec 46 R175: the exit flag is set; the advance does not run for this tag (spec 40 R88). -/
def execBkpt (_imm8 : BitVec 8) (s : State) : Result :=
  .next ((s.setExitFlag true).cost .exit)

/-! ### Hints -/

/-- Spec 46 R176. -/
def execNop (s : State) : Result := .next (s.cost .hint)

/-- Spec 46 R177: a no-op. -/
def execYield (s : State) : Result := whenSystemExt .yield s (.next (s.cost .hint))

/-- Spec 46 R178: always refused. -/
def execWfe (s : State) : Result := raiseMalformed .wfe s

/-- Spec 46 R179: always refused. -/
def execWfi (s : State) : Result := raiseMalformed .wfi s

/-- Spec 46 R180: a no-op. -/
def execSev (s : State) : Result := whenSystemExt .sev s (.next (s.cost .hint))

/-! ### System instructions -/

/-- Spec 46 R181. -/
def execCpsie (s : State) : Result := whenSystemExt .cpsie s (.next ((s.setPrimask false).cost .hint))

/-- Spec 46 R182. -/
def execCpsid (s : State) : Result := whenSystemExt .cpsid s (.next ((s.setPrimask true).cost .hint))

/-- The value MRS reads from a special register (spec 10 R37, 46 R183). -/
def readSysReg (r : SysReg) (s : State) : Word :=
  match r with
  | .apsr => s.cpu.flags.packed
  | .iapsr => s.cpu.flags.packed
  | .eapsr => s.cpu.flags.packed
  | .xpsr => s.cpu.flags.packed
  | .ipsr => 0#32
  | .epsr => 0#32
  | .iepsr => 0#32
  | .msp => s.x sp
  | .primask => zext (BitVec.ofBool s.cpu.primask)
  | .control => 0#32

/-- Spec 46 R183. -/
def execMrs (rd : Reg) (sysm : SysReg) (s : State) : Result :=
  whenSystemExt (.mrs rd sysm) s (writePlain rd (readSysReg sysm s) .system s)

/-- The effect of MSR on a special register (spec 10 R37, 46 R184); `i` is the instruction itself, for the fault of a CONTROL
write with bit 1 set. -/
def writeSysReg (i : Instr) (r : SysReg) (v : Word) (s : State) : Result :=
  match r with
  | .apsr => .next ((s.setFlags (Flags.ofWord v)).cost .system)
  | .iapsr => .next ((s.setFlags (Flags.ofWord v)).cost .system)
  | .eapsr => .next ((s.setFlags (Flags.ofWord v)).cost .system)
  | .xpsr => .next ((s.setFlags (Flags.ofWord v)).cost .system)
  | .ipsr => .next (s.cost .system)
  | .epsr => .next (s.cost .system)
  | .iepsr => .next (s.cost .system)
  | .msp => .next ((s.setX sp (v &&& 0xFFFFFFFC#32)).cost .system)
  | .primask => .next ((s.setPrimask (v.getLsbD 0)).cost .system)
  | .control => if v.getLsbD 1 then raiseMalformed i s else .next (s.cost .system)

/-- Spec 46 R184. -/
def execMsr (sysm : SysReg) (rn : Reg) (s : State) : Result :=
  whenSystemExt (.msr sysm rn) s (writeSysReg (.msr sysm rn) sysm (s.x rn) s)

/-- Spec 46 R185: a no-op, every access is already complete and in order (spec 20 R60, R61). -/
def execDsb (s : State) : Result := whenSystemExt .dsb s (.next (s.cost .system))

/-- Spec 46 R186: a no-op. -/
def execDmb (s : State) : Result := whenSystemExt .dmb s (.next (s.cost .system))

/-- Spec 46 R187: a no-op, every fetch already sees every earlier store (spec 20 R63). -/
def execIsb (s : State) : Result := whenSystemExt .isb s (.next (s.cost .system))

/-! ### Always refused -/

/-- Spec 46 R188. -/
def execSvc (imm8 : BitVec 8) (s : State) : Result := raiseMalformed (.svc imm8) s

/-- Spec 46 R189. -/
def execUdf (imm8 : BitVec 8) (s : State) : Result := raiseMalformed (.udf imm8) s

/-- Spec 46 R190. -/
def execUdfW (imm4 : BitVec 4) (imm12 : BitVec 12) (s : State) : Result := raiseMalformed (.udfW imm4 imm12) s

end Sys2Proof.Machine
end

