-- ==== Sys2Proof/Machine/ShiftAddSub.lean ====
section
/-! DEFINITION. Spec 41: shifts by an immediate, three-operand add and subtract, 8-bit immediate operations. -/

namespace Sys2Proof.Machine

/-- Spec 41 R108. -/
def execLslsImm (rd rm : LowReg) (imm5 : BitVec 5) (s : State) : Result :=
  writeShift (lo rd) (shiftC (s.x (lo rm)) .lsl imm5.toNat s.cpu.flags.c) s

/-- Spec 41 R109. -/
def execLsrsImm (rd rm : LowReg) (imm5 : BitVec 5) (s : State) : Result :=
  writeShift (lo rd) (lsrC (s.x (lo rm)) (rightShiftAmount imm5)) s

/-- Spec 41 R110. -/
def execAsrsImm (rd rm : LowReg) (imm5 : BitVec 5) (s : State) : Result :=
  writeShift (lo rd) (asrC (s.x (lo rm)) (rightShiftAmount imm5)) s

/-- Spec 41 R111. -/
def execAddsReg (rd rn rm : LowReg) (s : State) : Result :=
  writeAdd (lo rd) (addWithCarry (s.x (lo rn)) (s.x (lo rm)) false) s

/-- Spec 41 R112. -/
def execSubsReg (rd rn rm : LowReg) (s : State) : Result :=
  writeAdd (lo rd) (addWithCarry (s.x (lo rn)) (~~~(s.x (lo rm))) true) s

/-- Spec 41 R113. -/
def execAddsImm3 (rd rn : LowReg) (imm3 : BitVec 3) (s : State) : Result :=
  writeAdd (lo rd) (addWithCarry (s.x (lo rn)) (zext imm3) false) s

/-- Spec 41 R114. -/
def execSubsImm3 (rd rn : LowReg) (imm3 : BitVec 3) (s : State) : Result :=
  writeAdd (lo rd) (addWithCarry (s.x (lo rn)) (~~~(zext imm3)) true) s

/-- Spec 41 R115. -/
def execMovsImm (rd : LowReg) (imm8 : BitVec 8) (s : State) : Result :=
  writeLogical (lo rd) (zext imm8) .alu s

/-- Spec 41 R116. -/
def execCmpImm (rn : LowReg) (imm8 : BitVec 8) (s : State) : Result :=
  compareAdd (addWithCarry (s.x (lo rn)) (~~~(zext imm8)) true) s

/-- Spec 41 R117. -/
def execAddsImm8 (rdn : LowReg) (imm8 : BitVec 8) (s : State) : Result :=
  writeAdd (lo rdn) (addWithCarry (s.x (lo rdn)) (zext imm8) false) s

/-- Spec 41 R118. -/
def execSubsImm8 (rdn : LowReg) (imm8 : BitVec 8) (s : State) : Result :=
  writeAdd (lo rdn) (addWithCarry (s.x (lo rdn)) (~~~(zext imm8)) true) s

end Sys2Proof.Machine
end

