-- ==== Sys2Proof/Machine/CpuStep.lean ====
section
/-! DEFINITION. `Step()` of spec 40 R83: mode check, fetch, decode, execute, advance. -/

namespace Sys2Proof.Machine

/-- The fetch of one instruction at A: hw1, and hw2 from A + 2 when hw1 is the first halfword of a 32-bit instruction
(spec 40 R83, R85). -/
def fetch (s : State) : Except Fault (Half × Option Half) :=
  match fetchHalf s s.addr with
  | .error f => .error f
  | .ok hw1 =>
    if isWide hw1 then
      match fetchHalf s (s.addr + 2#32) with
      | .error f => .error f
      | .ok hw2 => .ok (hw1, some hw2)
    else .ok (hw1, none)

/-- `Advance(d, len)` (spec 40 R88). -/
def advance (i : Instr) (s : State) : State :=
  if i.isExit then s
  else if s.branchTaken then s.setPcReg (s.cpu.pcReg + 4#32)
  else s.setPcReg (s.cpu.pcReg + BitVec.ofNat 32 i.len)

/-- Execute and advance a decoded instruction (spec 40 R83, R86, R88). -/
def runInstr (i : Instr) (s : State) : Result :=
  andThen (exec i s) fun t => .next (advance i t)

/-- `Step()` (spec 40 R83), with the order of detection of spec 60 R235. -/
def cpuStep (s : State) : Result :=
  let s0 := s.setBranchTaken false
  if !s0.cpu.pcReg.getLsbD 0 then .fault (.modeViolation s0.cpu.pcReg)
  else
    orFault (fetch s0) fun w =>
      match decode w.1 w.2 with
      | .ok i => runInstr i s0
      | .error _ => .fault (.malformedInstruction s0.addr w.1 w.2)

end Sys2Proof.Machine
end

