-- ==== Sys2Proof/Machine/SimLoop.lean ====
section
/-! DEFINITION. The simulation loop (spec 49): one tick, the end of the run, the run. -/

namespace Sys2Proof.Machine

open Sys2Proof.Config (NumType)

/-! ### Period records (spec 49 R211, R217) -/

/-- The totals of `Finalize(p, estimate)` (spec 49 R217). -/
def Period.total (n : NumType) (p : Period) : Period :=
  let total := n.add (n.add p.energyInstructions p.energyBackup) p.energyRestore
  { p with
    energyTotal := total
    progress := if n.isZero total then none else some (n.div p.fpEnergy total) }

/-- The estimate of `Finalize(p, estimate)`, none at exit (spec 49 R217, R223). -/
def Period.estimated (p : Period) (estimate : Option Quantity) : Period := { p with estimatedProgress := estimate }

/-- Replace the current period. -/
def State.setCur (s : State) (p : Period) : State := { s with loop := { s.loop with cur := p } }

/-- Set the power state. -/
def State.setPower (s : State) (p : Power) : State := { s with loop := { s.loop with power := p } }

/-- Set the no-progress count. -/
def State.setNoProgress (s : State) (count : Nat) : State := { s with loop := { s.loop with noProgress := count } }

/-! ### The edges (spec 49 R216, R217). Each gives the state and the cycles charged so far to the tick. -/

/-- The restore of a later activation: its own period is opened and pays for it (spec 49 R215, R216). -/
def reactivate (s : State) : State × Nat :=
  let r := s.metered State.restore
  let p := { Period.new with restoreCycles := r.1.1, energyRestore := r.1.2 }
  ({ r.2 with loop := { r.2.loop with finished := r.2.loop.finished ++ [r.2.loop.cur], cur := p } }, r.1.1)

/-- Inactive to Active (spec 49 R216). -/
def activate (s : State) : State × Nat :=
  let r := if s.loop.first then (s, 0) else reactivate s
  let l := r.1.loop
  ({ r.1 with loop := { l with first := false, power := .active, cur := { l.cur with cycleStart := l.elapsed } } }, r.2)

/-- `CheckProgress()`: the no-progress count after the period, or NoForwardProgress (spec 49 R217). -/
def checkProgress (s : State) : Except Fault Nat :=
  if s.loop.cur.backups = 0 then
    if Config.noProgressLimit ≤ s.loop.noProgress + 1 then
      .error (.noForwardProgress s.loop.periods.length s.loop.elapsed)
    else .ok (s.loop.noProgress + 1)
  else .ok 0

/-- `Finalize(cur, estimate = true)` (spec 49 R217). -/
def finalizeEstimated (s : State) : State :=
  let p := s.loop.cur.total s.num
  let e := s.estimateProgress p
  e.2.setCur (p.estimated (some e.1))

/-- Active to Inactive (spec 49 R217). -/
def deactivate (s : State) : Except Fault State :=
  match checkProgress s with
  | .error f => .error f
  | .ok count => .ok ((finalizeEstimated (s.setNoProgress count)).setPower .inactive)

/-- The transition part of a tick (spec 49 R215), after the answer of `is_active`. -/
def transition (s : State) : Except Fault (State × Nat) :=
  let a := s.isActive
  match s.loop.power, a.1 with
  | .inactive, true => .ok (activate a.2)
  | .inactive, false => .ok (a.2, 0)
  | .active, true => .ok (a.2, 0)
  | .active, false =>
    match deactivate a.2 with
    | .error f => .error f
    | .ok s' => .ok (s', 0)

/-! ### The accounting of an active tick (spec 49 R218) -/

/-- Account the instruction just executed: its energy, count and cycles. -/
def accountInstr (s : State) : State :=
  let r := s.metered fun s0 => ((), s0.executeInstruction)
  let p := s.loop.cur
  r.2.setCur { p with
    instructions := p.instructions + 1
    instructionCycles := p.instructionCycles + s.stepCycles
    energyInstructions := s.num.add p.energyInstructions r.1.2 }

/-- Back up, with `tc` the cycles of the tick before it; the forward-progress snapshot is taken after it. Gives the state and the
cycles of the backup. -/
def accountBackup (tc : Nat) (s : State) : State × Nat :=
  let b := s.metered State.backup
  let p := s.loop.cur
  (b.2.setCur { p with
    backups := p.backups + 1
    backupCycles := p.backupCycles + b.1.1
    energyBackup := s.num.add p.energyBackup b.1.2
    fpEnergy := p.energyInstructions
    fpCycles := s.loop.elapsed + (tc + b.1.1) - p.cycleStart }, b.1.1)

/-- After a Step: account it, ask `will_backup` with the statistics after the instruction's own updates, and back up if it says so.
Gives the state and the cycles of the tick (spec 49 R215, R218). -/
def retire (tc : Nat) (s : State) : State × Nat :=
  let w := (accountInstr s).willBackup
  let tc1 := tc + s.stepCycles
  if w.1 then
    let b := accountBackup tc1 w.2
    (b.1, tc1 + b.2)
  else (w.2, tc1)

/-! ### The end of a tick (spec 49 R215, R220 to R222) -/

/-- Harvesting (spec 49 R220). -/
def harvest (tc : Nat) (s : State) : State :=
  if s.loop.power = .inactive ∨ s.params.alwaysHarvest = true then
    let amount := s.battery.accepts s.num (s.num.mul s.loop.rate (s.num.ofNat tc))
    { s.useBattery with
      battery := s.battery.harvest s.num amount
      loop := { s.loop with
        totals := { s.loop.totals with energyHarvested := s.num.add s.loop.totals.energyHarvested amount } } }
  else s

/-- `elapsed` (spec 49 R215). -/
def passTime (tc : Nat) (s : State) : State :=
  { s with loop := { s.loop with elapsed := s.loop.elapsed + tc } }

/-- `time = elapsed / clock_frequency()`: the one call of `clock_frequency()` in a tick (spec 49 R215, R221). -/
def clockTime (s : State) : State :=
  let f := s.clockFrequency
  { f.2 with loop := { s.loop with time := s.num.div (s.num.ofNat s.loop.elapsed) f.1 } }

/-- Voltage sampling, at most once a tick (spec 49 R222). -/
def sample (s : State) : State :=
  if s.num.le s.loop.nextSample s.loop.time then
    let v := s.env.getVoltage s.loop.time
    { s.useBattery with loop := { s.loop with
      voltage := v
      rate := s.env.chargingRate s.num v s.battery.capacitance
      nextSample := s.num.add s.loop.nextSample s.env.samplePeriod } }
  else s

/-- The end of the run after the tick that met the exit instruction (spec 49 R223); the slot is discarded
(48 R199, notes/assumptions/13.md). -/
def finish (s : State) : State :=
  if s.exitFlag then
    { s.useBattery with
      scheme := { s.useBattery.scheme with slot := none }
      loop := { s.loop with
        cur := (s.loop.cur.total s.num).estimated none
        totals := { s.loop.totals with finalEnergyStored := some s.battery.energyStored } } }
  else s

/-- What follows the step or the idle of a tick of `tc` cycles. -/
def closeTick (tc : Nat) (s : State) : State :=
  finish (sample (clockTime (harvest tc (passTime tc s))))

/-! ### One tick, and the run -/

/-- `Tick()` (spec 49 R215). -/
def tick (s : State) : Result :=
  orFault (transition s) fun r =>
    match r.1.loop.power with
    | .active => andThen (cpuStep r.1) fun t => .next (closeTick (retire r.2 t).2 (retire r.2 t).1)
    | .inactive => .next (closeTick (r.2 + s.params.idleTickCycles) r.1)

/-- One step of the machine: one tick, until the exit flag has ended the run (spec 49 R223); a completed run stays as it is
(notes/assumptions/1.md). -/
def loopStep (s : State) : Result := if s.exitFlag then .next s else tick s

/-- The three outcomes of a run with a tick bound (spec 49 R224, R226). -/
inductive RunOutcome
  /-- `Completed(stats)`: the statistics are in the state. -/
  | completed (s : State)
  /-- `Fatal(kind, info)`. -/
  | fatal (f : Fault)
  /-- The tick bound is reached. -/
  | boundReached (s : State)
  /-- An instruction has no meaning (none is left). -/
  | refused (r : Refusal)
deriving DecidableEq, Repr

/-- At most `bound` ticks (spec 49 R223 to R226). -/
def runTicks (bound : Nat) (s : State) : RunOutcome :=
  match bound with
  | 0 => if s.exitFlag then .completed s else .boundReached s
  | n + 1 =>
    if s.exitFlag then .completed s
    else match tick s with
      | .next t => runTicks n t
      | .fault f => .fatal f
      | .refused r => .refused r

end Sys2Proof.Machine
end

