-- ==== Sys2Proof/Machine/Boot.lean ====
section
/-! DEFINITION. What precedes the first tick: image load, reset, loop initialization (spec 70 R249 to R254, 49 R214), and the run of
spec 49 R224. Also where a word is placed so that the next step runs it. -/

namespace Sys2Proof.Machine

/-- The cells of `count` addresses from `base` whose bytes a function gives, in canonical form. -/
def cellsFrom (bytes : Nat → Byte) (base count : Nat) : Memory :=
  match count with
  | 0 => []
  | n + 1 =>
    let rest := cellsFrom bytes (base + 1) n
    if bytes base = Memory.unlisted then rest else (base, bytes base) :: rest

/-- The initial memory: image, then ROM_FILL, and RAM_INIT (spec 70 R249, 20 R50). -/
def imageMemory (p : Config.Params) (image : List Byte) (romFill ramInit : Nat → Byte) : Memory :=
  cellsFrom (fun a => image.getD (a - Config.romBase) (romFill (a - Config.romBase))) Config.romBase p.romSize ++
    cellsFrom (fun a => ramInit (a - Config.ramBase)) Config.ramBase p.ramSize

/-- `LoadImage(image)` (spec 70 R249); `none` is the host's report that the image cannot be read. -/
def loadImage (p : Config.Params) (image : Option (List Byte)) (romFill ramInit : Nat → Byte) : Except Fault Memory :=
  match image with
  | none => .error (.imageLoadFailure .unreadable 0)
  | some bytes =>
    if p.romSize < bytes.length then .error (.imageLoadFailure .tooLarge bytes.length)
    else .ok (imageMemory p bytes romFill ramInit)

/-- `Reset()` of the CPU (spec 70 R250); `loadsSp` is RESET_LOADS_SP. -/
def resetCpu (loadsSp : Bool) (s : State) : Except Fault State :=
  let s0 := { s with cpu := Cpu.reset, branchTaken := false, exitFlag := false, stepCycles := 0 }
  let stack : Except Fault Word := if loadsSp then memRead s0 0#32 .word else .ok 0#32
  match stack, memRead s0 Config.resetVectorAddr .word with
  | .error f, _ => .error f
  | .ok _, .error f => .error f
  | .ok v, .ok vec => .ok ((s0.setX sp v).setPcReg (vec + 4#32))

/-- The loop state at the start of the run, with an empty slot and the battery handle got (spec 49 R214, 70 R253). Both ways of using the
handle start with this call of `battery()` (DESIGN CHOICE, unsafe, notes/assumptions/15.md). -/
def initLoop (s : State) : State :=
  let v := s.env.getVoltage 0
  let s0 := { s with scheme := { s.scheme with slot := none } }
  { s0.askBattery with
    loop := { Loop.reset with
      nextSample := s.env.samplePeriod
      voltage := v
      rate := s.env.chargingRate s.num v s.battery.capacitance } }

/-- The order before the first tick: image, memory, reset, loop (spec 70 R254). `s` carries the collaborators and the parameters. -/
def boot (image : Option (List Byte)) (romFill ramInit : Nat → Byte) (s : State) : Except Fault State :=
  match loadImage s.params image romFill ramInit with
  | .error f => .error f
  | .ok m =>
    match resetCpu Config.resetLoadsSp (s.setMem m) with
    | .error f => .error f
    | .ok t => .ok (initLoop t)

/-- `Run(image, scheme, trace, parameters)` with a tick bound (spec 49 R224, R226). -/
def run (bound : Nat) (image : Option (List Byte)) (romFill ramInit : Nat → Byte) (s : State) : RunOutcome :=
  match boot image romFill ramInit s with
  | .error f => .fatal f
  | .ok t => runTicks bound t

/-! ### Placing one instruction where the next step fetches (notes/assumptions/5.md) -/

/-- Write bytes at consecutive addresses, as an image load does: no region check. -/
def placeBytes (bytes : List Byte) (addr : Word) (m : Memory) : Memory :=
  match bytes with
  | [] => m
  | b :: rest => placeBytes rest (addr + 1#32) (m.write addr.toNat b)

/-- The state in a tick that is active: where the scheme would not answer so, it is replaced by the one that is always active. -/
def State.awake (s : State) : State :=
  if s.isActive.1 then s else { s with scheme := { s.scheme with policy := .alwaysOn } }

/-- The state whose next step runs exactly the table word: its bytes stand at A, the Thumb bit is set, the run is not over, the next
tick is active and restores nothing, and SYSTEM_EXT admits the system rows. -/
def placeTableWord (s : State) (nbits w : Nat) : State :=
  { s with
    cpu := { s.cpu with pcReg := s.cpu.pcReg ||| 1#32 }
    mem := placeBytes (tableBytes nbits w) s.addr s.mem
    exitFlag := false
    loop := { s.loop with power := if s.loop.first then s.loop.power else .active }
    params := { s.params with systemExt := true } }.awake

end Sys2Proof.Machine
end

