-- ==== Sys2Proof/Machine/Step.lean ====
section
/-! DEFINITION. The step of the machine and the hook that places an instruction where it fetches. -/

namespace Sys2Proof.Machine

/-- One step: one tick of the simulation loop (spec 49 R215), in an active tick one instruction. -/
def step (s : State) : Host.Outcome State Fault Refusal := loopStep s

/-- `s` with a table word where `step` fetches its next instruction. -/
def State.withFetchWord (s : State) (nbits w : Nat) : State := placeTableWord s nbits w

end Sys2Proof.Machine
end

