-- ==== Sys2Proof/Safety.lean ====
section
/-! DEFINITION. What counts as a safe run, the invariant of the machine, and the words in which the claims are stated: what an
instruction keeps, what a flag means, which bit a shift moves. None of it is used by the machine. -/

namespace Sys2Proof.Machine

/-! ### Safe runs -/

/-- The first `n` steps from a state all answer a next state. -/
def SafeFor (n : Nat) (s : State) : Prop :=
  match n with
  | 0 => True
  | k + 1 => ∃ t, step s = .next t ∧ SafeFor k t

/-! ### The invariant -/

/-- Every listed byte lies in one of the two regions (spec 20 R48). -/
abbrev listedMapped (s : State) : Prop := ∀ c ∈ s.mem, mapped s.params c.1 = true

/-- A CPU State whose inert fields hold what no rule changes: Handler mode is never entered (spec 10 R35, 60 R242) and `pending`
stays 0 (spec 10 R36). -/
abbrev Cpu.inert (c : Cpu) : Prop := c.mode = .thread ∧ c.pending = 0#32

/-- A capacitor that is > 0 at every call (spec 49 R206). -/
abbrev Capacitor.Positive (n : Config.NumType) (c : Capacitor) : Prop :=
  ∀ stored events, n.lt 0 (c.value stored events) = true

/-- What the interfaces require of the collaborators' values: `clock_frequency() > 0`, `capacitance() > 0`, `sample_period() > 0`
(spec 49 R205, R206, R207). -/
structure State.LegalCollaborators (s : State) : Prop where
  clockFrequency : s.num.lt 0 s.scheme.clockFrequency = true
  capacitance : s.battery.capacitor.Positive s.num
  samplePeriod : s.num.lt 0 s.env.samplePeriod = true

/-- What holds of energies in exact arithmetic (spec 49 R209): a battery that holds no negative energy (R206), a rate and a harvest
that are not negative (R208, R220). -/
structure State.NoNegativeEnergy (s : State) : Prop where
  stored : 0 ≤ s.battery.stored
  rate : 0 ≤ s.loop.rate
  harvested : 0 ≤ s.loop.totals.energyHarvested

/-- The invariant of the machine: legal region sizes (spec 20 R47), memory in its canonical form and inside the regions, the inert
fields of the CPU State and of the snapshot, legal collaborators, a no-progress count under its limit (spec 49 R217), no
negative energy where `Num` is the rationals, `time` as R221 says, and a current period that began no later than now (R211). -/
structure State.Inv (s : State) : Prop where
  paramsLegal : s.params.legal
  memWf : s.mem.wf
  memMapped : listedMapped s
  cpuInert : s.cpu.inert
  slotInert : ∀ c, s.scheme.slot = some c → c.inert
  collaborators : s.LegalCollaborators
  progress : s.loop.noProgress < Config.noProgressLimit
  energy : s.num = .rational → s.NoNegativeEnergy
  time : s.loop.time = s.num.div (s.num.ofNat s.loop.elapsed) s.scheme.clockFrequency
  started : s.loop.cur.cycleStart ≤ s.loop.elapsed

/-! ### The private state of the scheme at the end of a tick -/

/-- The cells after a use of the battery handle, where the scheme of `z` owns the battery `b` and has the cells `m`: a call of `battery()`
at every use changes them, a handle got once does not (notes/assumptions/15.md). -/
def State.memoAfterUseOf (z : State) (b : Battery) (m : List Quantity) : List Quantity :=
  if z.params.handle = .everyUse then
    (z.scheme.policy.reply { slot := z.scheme.slot, memo := m, battery := b } .battery).memo
  else m

/-- The cells at the end `t` of a tick, from the state `z` after the step or the idle of the tick: a use of the handle for the harvest, the
call of `clock_frequency()`, a use of the handle for the sample, and one at the exit (spec 49 R215, R223). -/
def State.memoAtEnd (z t : State) : List Quantity :=
  let m1 := if t.loop.power = .inactive ∨ z.params.alwaysHarvest = true then z.memoAfterUseOf z.battery z.scheme.memo
    else z.scheme.memo
  let m2 := (z.scheme.policy.reply { slot := z.scheme.slot, memo := m1, battery := t.battery } .clockFrequency).memo
  let m3 := if z.num.le z.loop.nextSample t.loop.time then z.memoAfterUseOf t.battery m2 else m2
  if t.exitFlag then z.memoAfterUseOf t.battery m3 else m3

/-! ### Forward progress (spec 49 R228) -/

/-- `will_backup` never returns true. -/
abbrev Policy.NeverBacksUp (p : Policy) : Prop := ∀ o cpu stats, (p.reply o (.willBackup cpu stats)).answer = false

/-- `will_backup` always returns true. -/
abbrev Policy.AlwaysBacksUp (p : Policy) : Prop := ∀ o cpu stats, (p.reply o (.willBackup cpu stats)).answer = true

/-- Under a scheme that never backs up the no-progress count is the number of periods that have ended, and is under its limit. -/
structure State.Unbacked (s : State) : Prop where
  never : s.scheme.policy.NeverBacksUp
  noBackup : s.loop.cur.backups = 0
  limit : s.loop.noProgress < Config.noProgressLimit
  active : s.loop.power = .active → s.loop.first = false ∧ s.loop.noProgress + 1 = s.loop.periods.length
  ended : s.loop.power = .inactive → s.loop.first = false → s.loop.noProgress = s.loop.periods.length
  unstarted : s.loop.power = .inactive → s.loop.first = true → s.loop.noProgress = 0 ∧ s.loop.periods.length = 1

/-- Under a scheme that always backs up the current period of an active state has a backup. -/
structure State.Backed (s : State) : Prop where
  always : s.scheme.policy.AlwaysBacksUp
  backup : s.loop.power = .active → s.loop.cur.backups ≠ 0

/-- The tick about to run ends an active period (spec 49 R217). -/
abbrev State.endsPeriod (s : State) : Prop := s.exitFlag = false ∧ s.loop.power = .active ∧ s.isActive.1 = false

/-! ### What is kept -/

/-- Every register but r15 and the listed ones. -/
abbrev keepsRegs (s t : State) (dest : List Reg) : Prop := ∀ r : Reg, r ≠ 15 → r ∉ dest → t.x r = s.x r

/-- The four flags. -/
abbrev keepsFlags (s t : State) : Prop := t.cpu.flags = s.cpu.flags

/-- PM, the mode and `pending`. -/
abbrev keepsControl (s t : State) : Prop :=
  t.cpu.primask = s.cpu.primask ∧ t.cpu.mode = s.cpu.mode ∧ t.cpu.pending = s.cpu.pending

/-- `pc_reg` and `branch_taken`: no branch. -/
abbrev keepsPc (s t : State) : Prop := t.cpu.pcReg = s.cpu.pcReg ∧ t.branchTaken = s.branchTaken

/-- Every byte of memory. -/
abbrev keepsBytes (s t : State) : Prop := ∀ a : Nat, t.mem.read a = s.mem.read a

/-- Every byte of memory but the `n` bytes from `addr`. -/
abbrev keepsBytesExcept (s t : State) (addr : Word) (n : Nat) : Prop :=
  ∀ a : Nat, (∀ k < n, a ≠ byteAddr addr k) → t.mem.read a = s.mem.read a

/-- What lies outside the CPU, memory and the signals of a step. -/
abbrev keepsLoop (s t : State) : Prop :=
  t.scheme = s.scheme ∧ t.battery = s.battery ∧ t.env = s.env ∧ t.loop = s.loop ∧ t.params = s.params

/-- The frame of an instruction that writes at most the listed registers and flags (spec 40 R87). -/
abbrev registerFrame (s t : State) (dest : List Reg) : Prop :=
  keepsRegs s t dest ∧ keepsControl s t ∧ keepsPc s t ∧ keepsBytes s t ∧ t.exitFlag = s.exitFlag ∧ keepsLoop s t

/-- The frame of an instruction that stores `n` bytes from `addr` and writes at most the listed registers. -/
abbrev storeFrame (s t : State) (dest : List Reg) (addr : Word) (n : Nat) : Prop :=
  keepsRegs s t dest ∧ keepsFlags s t ∧ keepsControl s t ∧ keepsPc s t ∧ keepsBytesExcept s t addr n ∧
    t.exitFlag = s.exitFlag ∧ keepsLoop s t

/-- The frame of a branch to `target`: it moves the PC and writes at most the listed registers (spec 40 R106). -/
abbrev branchFrame (s t : State) (dest : List Reg) (target : Word) : Prop :=
  t.cpu.pcReg = (target &&& 0xFFFFFFFE#32) ||| 1#32 ∧ t.branchTaken = true ∧
    keepsRegs s t dest ∧ keepsFlags s t ∧ keepsControl s t ∧ keepsBytes s t ∧ t.exitFlag = s.exitFlag ∧ keepsLoop s t

/-! ### What a flag means -/

/-- N and Z of a result (spec 40 R97). -/
abbrev nzFlags (f : Flags) (r : Word) : Prop := (f.n = true ↔ r.toInt < 0) ∧ (f.z = true ↔ r.toNat = 0)

/-- The flags of `x + y + carryIn` with result `r`: carry out of the unsigned sum, overflow of the signed sum (spec 40 R98). -/
abbrev addFlags (f : Flags) (r x y : Word) (carryIn : Bool) : Prop :=
  nzFlags f r ∧ (f.c = true ↔ 2 ^ 32 ≤ x.toNat + y.toNat + carryIn.toNat) ∧
    (f.v = true ↔ r.toInt ≠ x.toInt + y.toInt + carryIn.toNat)

/-- The flags of `x - y - borrow` with result `r`: C is no borrow, V is overflow of the signed difference (spec 40 R98). -/
abbrev subFlags (f : Flags) (r x y : Word) (borrow : Bool) : Prop :=
  nzFlags f r ∧ (f.c = true ↔ y.toNat + borrow.toNat ≤ x.toNat) ∧
    (f.v = true ↔ r.toInt ≠ x.toInt - y.toInt - borrow.toNat)

/-- C and V as before. -/
abbrev keepsCV (s t : State) : Prop := t.cpu.flags.c = s.cpu.flags.c ∧ t.cpu.flags.v = s.cpu.flags.v

/-! ### Which bit a shift moves (spec 40 R99 to R102) -/

/-- Bit `k` of `x` shifted by `n`. -/
def shiftedBit (kind : ShiftKind) (x : Word) (n k : Nat) : Bool :=
  match kind with
  | .lsl => decide (n ≤ k) && x.getLsbD (k - n)
  | .lsr => x.getLsbD (k + n)
  | .asr => x.getLsbD (min (k + n) 31)
  | .ror => x.getLsbD ((k + n) % 32)

/-- The carry of `x` shifted by `n`: the last bit shifted out, for a rotation the top bit of the result; amount 0 keeps it. -/
def shiftedCarry (kind : ShiftKind) (x : Word) (n : Nat) (carryIn : Bool) : Bool :=
  if n = 0 then carryIn
  else match kind with
    | .lsl => decide (n ≤ 32) && x.getLsbD (32 - n)
    | .lsr => x.getLsbD (n - 1)
    | .asr => x.getLsbD (min (n - 1) 31)
    | .ror => x.getLsbD ((31 + n) % 32)

/-! ### Words of the encoding tables (spec 30 R68, R75) -/

/-- A 16-bit word decodes to an instruction. -/
abbrev encodes16 (hw1 : Half) (i : Instr) : Prop := decode hw1 none = .ok i

/-- A 32-bit word decodes to an instruction. -/
abbrev encodes32 (hw1 hw2 : Half) (i : Instr) : Prop := decode hw1 (some hw2) = .ok i

/-- A word decodes to no instruction. -/
abbrev refusedWord (hw1 : Half) (hw2 : Option Half) : Prop := ∃ e, decode hw1 hw2 = .error e

/-- A 3-bit register field. -/
abbrev f3 (r : LowReg) : BitVec 3 := BitVec.ofNat 3 r.val

/-- A 4-bit register field. -/
abbrev f4 (r : Reg) : BitVec 4 := BitVec.ofNat 4 r.val

/-- The T_HIREG word of op, d and m: `010001 op D Rm Rdn` with d = D:Rdn. -/
abbrev hiWord (op : BitVec 2) (d m : Reg) : Half :=
  0b010001#6 ++ op ++ (f4 d).extractLsb' 3 1 ++ f4 m ++ (f4 d).extractLsb' 0 3

/-- The condition field of B<c> (spec 30 R72). -/
def condField : Cond → BitVec 4
  | .eq => 0b0000#4 | .ne => 0b0001#4 | .cs => 0b0010#4 | .cc => 0b0011#4 | .mi => 0b0100#4
  | .pl => 0b0101#4 | .vs => 0b0110#4 | .vc => 0b0111#4 | .hi => 0b1000#4 | .ls => 0b1001#4
  | .ge => 0b1010#4 | .lt => 0b1011#4 | .gt => 0b1100#4 | .le => 0b1101#4

/-- The SYSm number of a special register (spec 10 R37). -/
def sysmField : SysReg → BitVec 8
  | .apsr => 0#8 | .iapsr => 1#8 | .eapsr => 2#8 | .xpsr => 3#8 | .ipsr => 5#8 | .epsr => 6#8
  | .iepsr => 7#8 | .msp => 8#8 | .primask => 16#8 | .control => 20#8

/-! ### Memory as numbers, and register lists -/

/-- The little-endian number in the `n` bytes from `addr` (spec 20 R51). -/
def leNat (s : State) (addr : Word) (n : Nat) : Nat :=
  ((List.range n).map fun k => (s.mem.read (byteAddr addr k)).toNat * 256 ^ k).sum

/-- The word at an address. -/
abbrev State.word (s : State) (addr : Word) : Word := s.mem.load addr .word

/-- An access of a width can read: its address is a multiple of the width and lies in a region (spec 20 R53, R55). -/
abbrev readable (s : State) (addr : Word) (w : Width) : Prop :=
  addr.toNat % w.bytes = 0 ∧ mapped s.params addr.toNat = true

/-- An access of a width can write: its address is a multiple of the width and lies in the data region (spec 20 R53, R56). -/
abbrev writable (s : State) (addr : Word) (w : Width) : Prop :=
  addr.toNat % w.bytes = 0 ∧ inData s.params addr.toNat = true

/-- The address of word `k` from `base`. -/
abbrev wordAddr (base : Word) (k : Nat) : Word := base + BitVec.ofNat 32 (4 * k)

/-- `n` words from `base` can be read. -/
abbrev wordsReadable (s : State) (base : Word) (n : Nat) : Prop := ∀ k < n, readable s (wordAddr base k) .word

/-- `n` words from `base` can be written. -/
abbrev wordsWritable (s : State) (base : Word) (n : Nat) : Prop := ∀ k < n, writable s (wordAddr base k) .word

/-- The number of registers of a list below register `i`: its word's place in a transfer (spec 44). -/
def placeIn (list : BitVec 8) (i : Nat) : Nat := ((List.range i).filter fun j => list.getLsbD j).length

/-- `BitCount` of a list. -/
def bitCount (list : BitVec 8) : Nat := placeIn list 8

/-- The registers of a list. -/
def maskRegs (list : BitVec 8) : List Reg := (List.finRange 16).filter fun r => decide (r.val < 8) && list.getLsbD r.val

/-! ### What an instruction leaves -/

/-- The instruction completes, and the next state is as described. -/
abbrev runs (i : Instr) (s : State) (post : State → Prop) : Prop := ∃ t, exec i s = .next t ∧ post t

/-- Nothing changes but the cycle count returned. -/
abbrev nopResult (s : State) (cycles : Nat) (t : State) : Prop :=
  keepsFlags s t ∧ t.stepCycles = cycles ∧ registerFrame s t []

/-- A register gets a value, no flag is written. -/
abbrev plainResult (s : State) (rd : Reg) (v : Word) (cycles : Nat) (t : State) : Prop :=
  t.x rd = v ∧ keepsFlags s t ∧ t.stepCycles = cycles ∧ registerFrame s t [rd]

/-- A register gets `x + y + carryIn` and the four flags are those of the sum. -/
abbrev addResult (s : State) (rd : Reg) (x y : Word) (carryIn : Bool) (t : State) : Prop :=
  t.x rd = x + y + BitVec.ofNat 32 carryIn.toNat ∧ addFlags t.cpu.flags (t.x rd) x y carryIn ∧
    t.stepCycles = 1 ∧ registerFrame s t [rd]

/-- A register gets `x - y - borrow` and the four flags are those of the difference. -/
abbrev subResult (s : State) (rd : Reg) (x y : Word) (borrow : Bool) (t : State) : Prop :=
  t.x rd = x - y - BitVec.ofNat 32 borrow.toNat ∧ subFlags t.cpu.flags (t.x rd) x y borrow ∧
    t.stepCycles = 1 ∧ registerFrame s t [rd]

/-- The four flags are those of `x - y`, no register is written. -/
abbrev cmpResult (s : State) (x y : Word) (t : State) : Prop :=
  subFlags t.cpu.flags (x - y) x y false ∧ t.stepCycles = 1 ∧ registerFrame s t []

/-- A register gets a value, N and Z are set from it, C and V are kept. -/
abbrev logicResult (s : State) (rd : Reg) (v : Word) (t : State) : Prop :=
  t.x rd = v ∧ nzFlags t.cpu.flags v ∧ keepsCV s t ∧ t.stepCycles = 1 ∧ registerFrame s t [rd]

/-- A register gets `x` shifted by `n`, N and Z are set from it, C is the carry of the shift, V is kept. -/
abbrev shiftResult (s : State) (rd : Reg) (kind : ShiftKind) (x : Word) (n : Nat) (t : State) : Prop :=
  (∀ k < 32, (t.x rd).getLsbD k = shiftedBit kind x n k) ∧ nzFlags t.cpu.flags (t.x rd) ∧
    t.cpu.flags.c = shiftedCarry kind x n s.cpu.flags.c ∧ t.cpu.flags.v = s.cpu.flags.v ∧
    t.stepCycles = 1 ∧ registerFrame s t [rd]

/-- The PC moves to `target`, and registers, flags and memory are as the frame says. -/
abbrev branchResult (s : State) (dest : List Reg) (target : Word) (cycles : Nat) (t : State) : Prop :=
  branchFrame s t dest target ∧ t.stepCycles = cycles

/-- A register gets the zero-extended number in memory. -/
abbrev loadResult (s : State) (rt : Reg) (addr : Word) (w : Width) (t : State) : Prop :=
  (t.x rt).toNat = leNat s addr w.bytes ∧ keepsFlags s t ∧ t.stepCycles = 2 ∧ registerFrame s t [rt]

/-- A register gets the sign-extended number in memory. -/
abbrev signedLoadResult (s : State) (rt : Reg) (addr : Word) (w : Width) (t : State) : Prop :=
  (t.x rt).toInt = (BitVec.ofNat (8 * w.bytes) (leNat s addr w.bytes)).toInt ∧
    keepsFlags s t ∧ t.stepCycles = 2 ∧ registerFrame s t [rt]

/-- The low bytes of a register stand in memory from `addr`. -/
abbrev storeResult (s : State) (rt : Reg) (addr : Word) (w : Width) (t : State) : Prop :=
  (∀ k < w.bytes, t.mem.read (byteAddr addr k) = (s.x rt).extractLsb' (8 * k) 8) ∧
    t.stepCycles = 2 ∧ storeFrame s t [] addr w.bytes

/-- The two faults of a load, alignment first (spec 20 R55). -/
abbrev loadFaults (i : Instr) (s : State) (addr : Word) (w : Width) : Prop :=
  (addr.toNat % w.bytes ≠ 0 → exec i s = .fault (.alignmentFault addr w.bytes)) ∧
    (addr.toNat % w.bytes = 0 → mapped s.params addr.toNat = false →
      exec i s = .fault (.memoryFault addr w.bytes .read))

/-- The two faults of a store, alignment first (spec 20 R56). -/
abbrev storeFaults (i : Instr) (s : State) (addr : Word) (w : Width) : Prop :=
  (addr.toNat % w.bytes ≠ 0 → exec i s = .fault (.alignmentFault addr w.bytes)) ∧
    (addr.toNat % w.bytes = 0 → inData s.params addr.toNat = false →
      exec i s = .fault (.memoryFault addr w.bytes .write))

/-- The rule of a load: its two faults, and on a readable address its completion. -/
abbrev loadRule (i : Instr) (s : State) (rt : Reg) (addr : Word) (w : Width) : Prop :=
  loadFaults i s addr w ∧ (readable s addr w → runs i s (loadResult s rt addr w))

/-- The rule of a sign-extending load. -/
abbrev signedLoadRule (i : Instr) (s : State) (rt : Reg) (addr : Word) (w : Width) : Prop :=
  loadFaults i s addr w ∧ (readable s addr w → runs i s (signedLoadResult s rt addr w))

/-- The rule of a store: its two faults, and on a writable address its completion. -/
abbrev storeRule (i : Instr) (s : State) (rt : Reg) (addr : Word) (w : Width) : Prop :=
  storeFaults i s addr w ∧ (writable s addr w → runs i s (storeResult s rt addr w))

/-- The registers of a list hold the words from `base` upward, the lowest register the lowest word (spec 44). -/
abbrev listLoaded (s t : State) (list : BitVec 8) (base : Word) : Prop :=
  ∀ i : LowReg, list.getLsbD i.val = true → t.x (lo i) = s.word (wordAddr base (placeIn list i.val))

/-- The words from `base` upward hold the registers of a list, the lowest register the lowest word (spec 44). -/
abbrev listStored (s t : State) (list : BitVec 8) (base : Word) : Prop :=
  ∀ i : LowReg, list.getLsbD i.val = true → t.word (wordAddr base (placeIn list i.val)) = s.x (lo i)

/-- What an exception return from the frame at `frame` leaves (spec 60 R238), with `cycles` in all; `others` are the registers
written before it. -/
abbrev returnResult (s : State) (others : List Reg) (frame : Word) (cycles : Nat) (t : State) : Prop :=
  (t.x 0 = s.word (wordAddr frame 0) ∧ t.x 1 = s.word (wordAddr frame 1) ∧ t.x 2 = s.word (wordAddr frame 2) ∧
    t.x 3 = s.word (wordAddr frame 3) ∧ t.x 12 = s.word (wordAddr frame 4) ∧ t.x 14 = s.word (wordAddr frame 5)) ∧
  t.x 13 = frame + 32#32 ∧
  t.cpu.pcReg = (s.word (wordAddr frame 6) &&& 0xFFFFFFFE#32) ||| 1#32 ∧ t.branchTaken = true ∧
  (t.cpu.flags.n = (s.word (wordAddr frame 7)).getLsbD 31 ∧ t.cpu.flags.z = (s.word (wordAddr frame 7)).getLsbD 30 ∧
    t.cpu.flags.c = (s.word (wordAddr frame 7)).getLsbD 29 ∧ t.cpu.flags.v = (s.word (wordAddr frame 7)).getLsbD 28) ∧
  t.cpu.mode = .thread ∧ t.cpu.primask = s.cpu.primask ∧ t.cpu.pending = s.cpu.pending ∧
  t.stepCycles = cycles ∧ keepsRegs s t ([0, 1, 2, 3, 12, 13, 14] ++ others) ∧ keepsBytes s t ∧
  t.exitFlag = s.exitFlag ∧ keepsLoop s t

/-! ### Classes of instructions -/

/-- The rows SYSTEM_EXT admits (spec 30 R79). -/
def isSystemRow : Instr → Bool
  | .cpsie => true
  | .cpsid => true
  | .mrs _ _ => true
  | .msr _ _ => true
  | .dsb => true
  | .dmb => true
  | .isb => true
  | .yield => true
  | .sev => true
  | _ => false

/-- The rows that are refused whatever SYSTEM_EXT is (spec 30 R79). -/
def isRefusedRow : Instr → Bool
  | .svc _ => true
  | .udf _ => true
  | .udfW _ _ => true
  | .wfe => true
  | .wfi => true
  | _ => false

/-- The instructions that access memory (spec 43, 44; BX only through an exception return). -/
def accessesMemory : Instr → Bool
  | .ldrLit _ _ => true
  | .strReg _ _ _ => true
  | .strhReg _ _ _ => true
  | .strbReg _ _ _ => true
  | .ldrsbReg _ _ _ => true
  | .ldrReg _ _ _ => true
  | .ldrhReg _ _ _ => true
  | .ldrbReg _ _ _ => true
  | .ldrshReg _ _ _ => true
  | .strImm _ _ _ => true
  | .ldrImm _ _ _ => true
  | .strbImm _ _ _ => true
  | .ldrbImm _ _ _ => true
  | .strhImm _ _ _ => true
  | .ldrhImm _ _ _ => true
  | .strSp _ _ => true
  | .ldrSp _ _ => true
  | .stm _ _ => true
  | .ldm _ _ => true
  | .push _ _ => true
  | .pop _ _ => true
  | .bx _ => true
  | _ => false

/-- The instructions that write N, Z, C and V (spec 10 R32). -/
def writesNZCV : Instr → Bool
  | .addsReg _ _ _ => true
  | .subsReg _ _ _ => true
  | .addsImm3 _ _ _ => true
  | .subsImm3 _ _ _ => true
  | .cmpImm _ _ => true
  | .addsImm8 _ _ => true
  | .subsImm8 _ _ => true
  | .adcs _ _ => true
  | .sbcs _ _ => true
  | .rsbs _ _ => true
  | .cmpReg _ _ => true
  | .cmn _ _ => true
  | .cmpHi _ _ => true
  | .msr r _ => r == .apsr || r == .iapsr || r == .eapsr || r == .xpsr
  | _ => false

/-- The shifts, which write N and Z, and C for an amount other than 0 (spec 10 R32). -/
def writesNZC : Instr → Bool
  | .lslsImm _ _ _ => true
  | .lsrsImm _ _ _ => true
  | .asrsImm _ _ _ => true
  | .lslsReg _ _ => true
  | .lsrsReg _ _ => true
  | .asrsReg _ _ => true
  | .rors _ _ => true
  | _ => false

/-- The instructions that write N and Z only (spec 10 R32). -/
def writesNZ : Instr → Bool
  | .movsImm _ _ => true
  | .ands _ _ => true
  | .eors _ _ => true
  | .orrs _ _ => true
  | .bics _ _ => true
  | .mvns _ _ => true
  | .muls _ _ => true
  | .tst _ _ => true
  | _ => false

/-- The value that BX or POP with PC branches through (spec 40 R107). -/
def branchValue (i : Instr) (s : State) : Option Word :=
  match i with
  | .bx rm => some (s.x rm)
  | .pop true list => some (s.word (wordAddr (s.x 13) (bitCount list)))
  | _ => none

/-- The instruction returns from an exception (spec 60 R237). -/
abbrev returnsFromException (i : Instr) (s : State) : Prop :=
  ∃ target, branchValue i s = some target ∧ target.extractLsb' 28 4 = 0xF#4

/-- The frame an exception return of the instruction pops: SP of BX, the raised SP of POP (spec 44 R158, 60 R238). -/
def returnFrame (i : Instr) (s : State) : Option Word :=
  match i with
  | .bx _ => some (s.x 13)
  | .pop true list => some (wordAddr (s.x 13) (bitCount list + 1))
  | _ => none

/-! ### Energy and cycles of a run, in exact arithmetic -/

/-- The energy a period's calls removed (spec 49 R211). -/
def Period.spent (p : Period) : Quantity := p.energyInstructions + p.energyBackup + p.energyRestore

/-- The energy all periods removed. -/
def Loop.spent (l : Loop) : Quantity := (l.periods.map Period.spent).sum

/-- The cycles a period accounts for (spec 49 R211). -/
def Period.cycles (p : Period) : Nat := p.instructionCycles + p.backupCycles + p.restoreCycles

/-- The cycles all periods account for. -/
def Loop.cycles (l : Loop) : Nat := (l.periods.map Period.cycles).sum

end Sys2Proof.Machine
end

