-- ==== Sys2Proof/Certificates/Slice0/Obligations.lean ====
section
/-! DEFINITION. The statements for the provers. Each docstring names the rule of spec/ the statement formalises; the vocabulary
(`runs`, `registerFrame`, `addFlags`, ...) is that of Sys2Proof/Safety.lean. -/

section
open Sys2Proof Sys2Proof.Machine

/-! ### Image load, reset, boot -/

/-- Spec 10 R43, 70 R250, R251: reset sets every piece of CPU state to its reset value, for both values of RESET_LOADS_SP; a program
region of less than 8 bytes makes the vector read fault; the first instruction is at the vector with bit 0 clear, and bit 0 of
the vector is the mode bit the first step checks. -/
def Obligations.ResetValues : Prop :=
  ∀ (loadsSp : Bool) (s : State), s.params.legal →
    (8 ≤ s.params.romSize → ∃ t, resetCpu loadsSp s = .ok t ∧
      (∀ r : Reg, r ≠ 13 → r ≠ 15 → t.x r = 0#32) ∧
      t.x 13 = (if loadsSp then s.word 0#32 else 0#32) ∧
      t.cpu.pcReg = s.word 4#32 + 4#32 ∧
      t.cpu.flags = ⟨false, false, false, false⟩ ∧ t.cpu.primask = false ∧ t.cpu.mode = .thread ∧
      t.cpu.pending = 0#32 ∧ t.branchTaken = false ∧ t.exitFlag = false ∧
      t.mem = s.mem ∧ keepsLoop s t ∧
      t.addr = s.word 4#32 &&& 0xFFFFFFFE#32 ∧
      ((s.word 4#32).getLsbD 0 = true → (t.cpu.pcReg &&& 0xFFFFFFFE#32) - 4#32 + 1#32 = s.word 4#32) ∧
      ((s.word 4#32).getLsbD 0 = false → cpuStep t = .fault (.modeViolation (s.word 4#32 + 4#32)))) ∧
    (s.params.romSize < 8 → resetCpu loadsSp s = .error (.memoryFault 4#32 4 .read))

/-- Spec 70 R249, 20 R50: the image load. -/
def Obligations.ImageLoad : Prop :=
  ∀ (p : Config.Params) (image : List Byte) (romFill ramInit : Nat → Byte), p.legal →
    loadImage p none romFill ramInit = .error (.imageLoadFailure .unreadable 0) ∧
    (p.romSize < image.length →
      loadImage p (some image) romFill ramInit = .error (.imageLoadFailure .tooLarge image.length)) ∧
    (image.length ≤ p.romSize → ∃ m, loadImage p (some image) romFill ramInit = .ok m ∧
      (∀ k (h : k < image.length), m.read k = image[k]) ∧
      (∀ k, image.length ≤ k → k < p.romSize → m.read k = romFill k) ∧
      (∀ k, k < p.ramSize → m.read (0x20000000 + k) = ramInit k))

/-- Spec 70 R254, 49 R214, 70 R253: before the first tick come the image load, the reset and the loop initialization, in this
order; a fatal condition at any of them ends the run; the loop starts as R214 says and the slot is empty. -/
def Obligations.BootOrder : Prop :=
  ∀ (image : Option (List Byte)) (romFill ramInit : Nat → Byte) (s : State),
    (∀ f, loadImage s.params image romFill ramInit = .error f → boot image romFill ramInit s = .error f) ∧
    (∀ m f, loadImage s.params image romFill ramInit = .ok m → resetCpu false (s.setMem m) = .error f →
      boot image romFill ramInit s = .error f) ∧
    (∀ m u, loadImage s.params image romFill ramInit = .ok m → resetCpu false (s.setMem m) = .ok u →
      ∃ t, boot image romFill ramInit s = .ok t ∧ t.cpu = u.cpu ∧ t.mem = m ∧ t.battery = s.battery ∧
        t.scheme.slot = none ∧ t.loop.power = .inactive ∧ t.loop.first = true ∧ t.loop.elapsed = 0 ∧ t.loop.time = 0 ∧
        t.loop.noProgress = 0 ∧ t.loop.periods = [Period.new] ∧ t.loop.totals.energyHarvested = 0 ∧
        t.loop.voltage = s.env.getVoltage 0 ∧
        t.loop.rate = s.env.chargingRate s.num (s.env.getVoltage 0) s.battery.capacitance ∧
        t.loop.nextSample = s.env.samplePeriod)

/-! ### Encoding and decode -/

/-- Words written out from the encodings of spec 30 section 6, one and more of each family, and the instruction each stands for. The spec
refuses the UDF.W word at decode, and the MRS, MSR and DMB words when SYSTEM_EXT is false; that they decode to their instructions is
the model's choice (notes/assumptions/9.md). -/
def Obligations.SampleWordsDecode : Prop :=
  encodes16 0x0048#16 (.lslsImm 0 1 1#5) ∧ encodes16 0x1A88#16 (.subsReg 0 1 2) ∧ encodes16 0x2105#16 (.movsImm 1 5#8) ∧
  encodes16 0x4348#16 (.muls 0 1) ∧ encodes16 0x4685#16 (.movHi 13 0) ∧ encodes16 0x45C1#16 (.cmpHi 9 8) ∧
  encodes16 0x4A01#16 (.ldrLit 2 1#8) ∧ encodes16 0x5C8B#16 (.ldrbReg 3 1 2) ∧ encodes16 0x60CE#16 (.strImm 6 1 3#5) ∧
  encodes16 0xC106#16 (.stm 1 6#8) ∧ encodes16 0xB510#16 (.push true 0x10#8) ∧ encodes16 0xBD10#16 (.pop true 0x10#8) ∧
  encodes16 0xD1FC#16 (.bCond .ne 0xFC#8) ∧ encodes16 0x4770#16 (.bx 14) ∧
  encodes32 0xF000#16 0xF801#16 (.bl 0#1 0#10 1#1 1#1 1#11) ∧
  encodes16 0xBAC8#16 (.revsh 0 1) ∧ encodes16 0xBEAB#16 (.bkpt 0xAB#8) ∧
  encodes32 0xF3EF#16 0x8110#16 (.mrs 1 .primask) ∧ encodes32 0xF380#16 0x8808#16 (.msr .msp 0) ∧
  encodes32 0xF3BF#16 0x8F5F#16 .dmb ∧ encodes32 0xF7F0#16 0xA000#16 (.udfW 0#4 0#12)

/-- Every well-formed instruction is what its own words decode to, with every operand at every value. For WFE, WFI, SVC, UDF and UDF.W, and
for the SYSTEM_EXT rows when it is false, which the spec refuses at decode, that the words decode is the model's choice
(notes/assumptions/9.md). -/
def Obligations.DecodeOfEncode : Prop := ∀ i : Instr, i.WellFormed → decode (encode i).1 (encode i).2 = .ok i

/-- The words that decode to an instruction are the words it encodes to, so that no two words share an instruction; and the
instruction is well-formed. That the words of the refused rows decode is the model's choice (notes/assumptions/9.md). -/
def Obligations.EncodeOfDecode : Prop :=
  ∀ (hw1 : Half) (hw2 : Option Half) (i : Instr), (hw2.isSome = isWide hw1) → decode hw1 hw2 = .ok i →
    encode i = (hw1, hw2) ∧ i.WellFormed

/-- Spec 30 R66: an instruction is one halfword, or two with the second at the next higher address, and is 32 bits wide exactly
when bits 15 to 11 of the first are 11101, 11110 or 11111. -/
def Obligations.InstructionWidth : Prop :=
  ∀ (s : State) (hw1 : Half) (hw2 : Option Half), fetch s = .ok (hw1, hw2) →
    fetchHalf s s.addr = .ok hw1 ∧ (∀ h, hw2 = some h → fetchHalf s (s.addr + 2#32) = .ok h) ∧
    (hw2.isSome = true ↔
      hw1.extractLsb' 11 5 = 0b11101#5 ∨ hw1.extractLsb' 11 5 = 0b11110#5 ∨ hw1.extractLsb' 11 5 = 0b11111#5)

/-- Spec 30 R76: the undefined encodings decode to no instruction. -/
def Obligations.UndefinedEncodingsRefused : Prop :=
  (∀ x : BitVec 8, refusedWord (0b10110001#8 ++ x) none ∧ refusedWord (0b10110011#8 ++ x) none ∧
    refusedWord (0b10111001#8 ++ x) none ∧ refusedWord (0b10111011#8 ++ x) none ∧
    (x ≠ 0x62#8 → x ≠ 0x72#8 → refusedWord (0b10110110#8 ++ x) none) ∧
    refusedWord (0b10110111#8 ++ x) none ∧ refusedWord (0b10111000#8 ++ x) none) ∧
  (∀ x : BitVec 6, refusedWord (0b1011101010#10 ++ x) none) ∧
  (∀ x y : BitVec 4, y ≠ 0#4 → refusedWord (0b10111111#8 ++ x ++ y) none) ∧
  (∀ (x : BitVec 11) (hw2 : Half), refusedWord (0b11101#5 ++ x) (some hw2)) ∧
  (∀ hw1 hw2 : Half, (hw1.extractLsb' 11 5 = 0b11110#5 ∨ hw1.extractLsb' 11 5 = 0b11111#5) →
    (hw1 ++ hw2) &&& 0xF800D000#32 ≠ 0xF000D000#32 → (hw1 ++ hw2) &&& 0xFFF0FF00#32 ≠ 0xF3808800#32 →
    (hw1 ++ hw2) &&& 0xFFFFF000#32 ≠ 0xF3EF8000#32 → hw1 ++ hw2 ≠ 0xF3BF8F4F#32 → hw1 ++ hw2 ≠ 0xF3BF8F5F#32 →
    hw1 ++ hw2 ≠ 0xF3BF8F6F#32 → (hw1 ++ hw2) &&& 0xFFF0F000#32 ≠ 0xF7F0A000#32 → refusedWord hw1 (some hw2)) ∧
  (∀ (l : BitVec 1) (m : Reg) (low : BitVec 3), low ≠ 0#3 → refusedWord (0b01000111#8 ++ l ++ f4 m ++ low) none)

/-- Spec 30 R77: the encodings ARMv6-M calls UNPREDICTABLE decode to no instruction. -/
def Obligations.UnpredictableEncodingsRefused : Prop :=
  refusedWord (hiWord 0b00#2 15 15) none ∧
  (∀ n m : Reg, (n.val < 8 ∧ m.val < 8) ∨ n = 15 ∨ m = 15 → refusedWord (hiWord 0b01#2 n m) none) ∧
  refusedWord (0b010001111#9 ++ f4 15 ++ 0#3) none ∧
  (∀ (l : BitVec 1) (n : LowReg), refusedWord (0b1100#4 ++ l ++ f3 n ++ 0#8) none) ∧
  (∀ (n j : LowReg) (list : BitVec 8), list.getLsbD n.val = true → list.getLsbD j.val = true → j < n →
    refusedWord (0b11000#5 ++ f3 n ++ list) none) ∧
  refusedWord (0b10110100#8 ++ 0#8) none ∧ refusedWord (0b10111100#8 ++ 0#8) none ∧
  (∀ sysm : BitVec 8, refusedWord 0xF3EF#16 (some (0b1000#4 ++ f4 13 ++ sysm)) ∧
    refusedWord 0xF3EF#16 (some (0b1000#4 ++ f4 15 ++ sysm)) ∧
    refusedWord (0b111100111000#12 ++ f4 13) (some (0b10001000#8 ++ sysm)) ∧
    refusedWord (0b111100111000#12 ++ f4 15) (some (0b10001000#8 ++ sysm))) ∧
  (∀ (op : BitVec 3) (option : BitVec 4), op = 0b100#3 ∨ op = 0b101#3 ∨ op = 0b110#3 → option ≠ 0b1111#4 →
    refusedWord 0xF3BF#16 (some (0b100011110#9 ++ op ++ option))) ∧
  (∀ (n : Reg) (hw2 : Half), hw2.extractLsb' 14 2 = 0b10#2 → hw2.extractLsb' 12 1 = 0#1 →
    hw2.extractLsb' 8 8 ≠ 0b10001000#8 → refusedWord (0b111100111000#12 ++ f4 n) (some hw2)) ∧
  (∀ (low : BitVec 4) (x : BitVec 12), low ≠ 0b1111#4 →
    refusedWord (0b111100111110#12 ++ low) (some (0b1000#4 ++ x))) ∧
  (∀ x : BitVec 12, refusedWord 0xF3EF#16 (some (0b1010#4 ++ x)))

/-! ### Memory -/

/-- Spec 20 R53, R55, R57: a data read checks alignment, then the region, and gives the little-endian number; a fetch needs both
its bytes in a region. The regions are multiples of 4 long, so the first byte of an aligned access decides. -/
def Obligations.MemoryReads : Prop :=
  ∀ (s : State) (addr : Word) (w : Width), s.params.legal →
    (addr.toNat % w.bytes ≠ 0 → memRead s addr w = .error (.alignmentFault addr w.bytes)) ∧
    (addr.toNat % w.bytes = 0 → mapped s.params addr.toNat = false →
      memRead s addr w = .error (.memoryFault addr w.bytes .read)) ∧
    (addr.toNat % w.bytes = 0 → mapped s.params addr.toNat = true →
      ∃ v, memRead s addr w = .ok v ∧
        v.toNat = ((List.range w.bytes).map fun k => (s.mem.read (addr.toNat + k)).toNat * 256 ^ k).sum) ∧
    (mapped s.params addr.toNat = false ∨ mapped s.params (addr + 1#32).toNat = false →
      fetchHalf s addr = .error (.memoryFault addr 2 .fetch)) ∧
    (mapped s.params addr.toNat = true → mapped s.params (addr + 1#32).toNat = true →
      fetchHalf s addr = .ok (s.mem.read (addr + 1#32).toNat ++ s.mem.read addr.toNat))

/-- Spec 20 R56, R52: a store checks alignment, then the data region, and writes the low bytes little-endian and nothing else; a
word written reads back by bytes and halfwords. -/
def Obligations.MemoryWrites : Prop :=
  ∀ (s : State) (addr : Word) (w : Width) (v : Word), s.params.legal → s.mem.wf →
    (addr.toNat % w.bytes ≠ 0 → memWrite s addr w v = .error (.alignmentFault addr w.bytes)) ∧
    (addr.toNat % w.bytes = 0 → inData s.params addr.toNat = false →
      memWrite s addr w v = .error (.memoryFault addr w.bytes .write)) ∧
    (addr.toNat % w.bytes = 0 → inData s.params addr.toNat = true →
      ∃ t, memWrite s addr w v = .ok t ∧
        (∀ k < w.bytes, t.mem.read (addr.toNat + k) = v.extractLsb' (8 * k) 8) ∧
        (∀ a, a < addr.toNat ∨ addr.toNat + w.bytes ≤ a → t.mem.read a = s.mem.read a) ∧
        t.cpu = s.cpu ∧ t.exitFlag = s.exitFlag ∧ keepsLoop s t ∧
        (w = .word → memRead t addr .byte = .ok (zext (v.extractLsb' 0 8)) ∧
          memRead t (addr + 1#32) .byte = .ok (zext (v.extractLsb' 8 8)) ∧
          memRead t (addr + 2#32) .half = .ok (zext (v.extractLsb' 16 16))))

/-- Spec 20 R45: no instruction writes a byte outside the data region, so the program region keeps its bytes. -/
def Obligations.OnlyDataRegionWritten : Prop :=
  ∀ (i : Instr) (s t : State), s.mem.wf → exec i s = .next t →
    ∀ a, inData s.params a = false → t.mem.read a = s.mem.read a

/-! ### Flags -/

/-- Spec 40 R98: AddWithCarry, its carry as a comparison of unbounded integers, its overflow as the signed sum that does not fit;
subtraction through the complement, where C is no borrow. -/
def Obligations.AddWithCarryLaw : Prop :=
  ∀ (x y : Word) (c : Bool),
    (addWithCarry x y c).result.toNat = (x.toNat + y.toNat + c.toNat) % 2 ^ 32 ∧
    ((addWithCarry x y c).carry = true ↔ 2 ^ 32 ≤ x.toNat + y.toNat + c.toNat) ∧
    ((addWithCarry x y c).overflow = true ↔
      x.getLsbD 31 = y.getLsbD 31 ∧ (addWithCarry x y c).result.getLsbD 31 ≠ x.getLsbD 31) ∧
    ((addWithCarry x y c).overflow = true ↔
      (addWithCarry x y c).result.toInt ≠ x.toInt + y.toInt + (c.toNat : Int)) ∧
    (addWithCarry x (~~~y) true).result = x - y ∧
    ((addWithCarry x (~~~y) true).carry = true ↔ y.toNat ≤ x.toNat)

/-- Spec 40 R99 to R102: every bit of a shifted value and its carry, for every amount. -/
def Obligations.ShiftLaw : Prop :=
  ∀ (x : Word) (kind : ShiftKind) (n : Nat) (c : Bool),
    (∀ k < 32, (shiftC x kind n c).1.getLsbD k = shiftedBit kind x n k) ∧
    (shiftC x kind n c).2 = shiftedCarry kind x n c

/-- Spec 40 R105, R98: the table of conditions, and what the conditions say of two compared values. -/
def Obligations.ConditionLaw : Prop :=
  (∀ f : Flags,
    (conditionPassed .eq f = true ↔ f.z = true) ∧ (conditionPassed .ne f = true ↔ f.z = false) ∧
    (conditionPassed .cs f = true ↔ f.c = true) ∧ (conditionPassed .cc f = true ↔ f.c = false) ∧
    (conditionPassed .mi f = true ↔ f.n = true) ∧ (conditionPassed .pl f = true ↔ f.n = false) ∧
    (conditionPassed .vs f = true ↔ f.v = true) ∧ (conditionPassed .vc f = true ↔ f.v = false) ∧
    (conditionPassed .hi f = true ↔ f.c = true ∧ f.z = false) ∧
    (conditionPassed .ls f = true ↔ f.c = false ∨ f.z = true) ∧
    (conditionPassed .ge f = true ↔ f.n = f.v) ∧ (conditionPassed .lt f = true ↔ f.n ≠ f.v) ∧
    (conditionPassed .gt f = true ↔ f.z = false ∧ f.n = f.v) ∧
    (conditionPassed .le f = true ↔ f.z = true ∨ f.n ≠ f.v)) ∧
  (∀ x y : Word,
    (conditionPassed .eq (.ofAdd (addWithCarry x (~~~y) true)) = true ↔ x = y) ∧
    (conditionPassed .cs (.ofAdd (addWithCarry x (~~~y) true)) = true ↔ y.toNat ≤ x.toNat) ∧
    (conditionPassed .hi (.ofAdd (addWithCarry x (~~~y) true)) = true ↔ y.toNat < x.toNat) ∧
    (conditionPassed .ls (.ofAdd (addWithCarry x (~~~y) true)) = true ↔ x.toNat ≤ y.toNat) ∧
    (conditionPassed .ge (.ofAdd (addWithCarry x (~~~y) true)) = true ↔ y.toInt ≤ x.toInt) ∧
    (conditionPassed .lt (.ofAdd (addWithCarry x (~~~y) true)) = true ↔ x.toInt < y.toInt) ∧
    (conditionPassed .gt (.ofAdd (addWithCarry x (~~~y) true)) = true ↔ y.toInt < x.toInt) ∧
    (conditionPassed .le (.ofAdd (addWithCarry x (~~~y) true)) = true ↔ x.toInt ≤ y.toInt))

/-! ### Shift, add, subtract (spec 41, 42): encoding, result, flags, cycles and frame, always completing -/

/-- Spec 41 R108, R109, R110: LSLS, LSRS, ASRS by a constant. -/
def Obligations.ShiftImmediate : Prop :=
  ∀ (s : State) (rd rm : LowReg) (imm5 : BitVec 5),
    (encodes16 (0b00000#5 ++ imm5 ++ f3 rm ++ f3 rd) (.lslsImm rd rm imm5) ∧
      runs (.lslsImm rd rm imm5) s (shiftResult s (lo rd) .lsl (s.x (lo rm)) imm5.toNat)) ∧
    (encodes16 (0b00001#5 ++ imm5 ++ f3 rm ++ f3 rd) (.lsrsImm rd rm imm5) ∧
      runs (.lsrsImm rd rm imm5) s
        (shiftResult s (lo rd) .lsr (s.x (lo rm)) (if imm5.toNat = 0 then 32 else imm5.toNat))) ∧
    (encodes16 (0b00010#5 ++ imm5 ++ f3 rm ++ f3 rd) (.asrsImm rd rm imm5) ∧
      runs (.asrsImm rd rm imm5) s
        (shiftResult s (lo rd) .asr (s.x (lo rm)) (if imm5.toNat = 0 then 32 else imm5.toNat)))

/-- Spec 42 R125, R126, R127, R128: the shifts by the low byte of a register. -/
def Obligations.ShiftRegister : Prop :=
  ∀ (s : State) (rdn rm : LowReg),
    (encodes16 (0b0100000010#10 ++ f3 rm ++ f3 rdn) (.lslsReg rdn rm) ∧
      runs (.lslsReg rdn rm) s (shiftResult s (lo rdn) .lsl (s.x (lo rdn)) ((s.x (lo rm)).toNat % 256))) ∧
    (encodes16 (0b0100000011#10 ++ f3 rm ++ f3 rdn) (.lsrsReg rdn rm) ∧
      runs (.lsrsReg rdn rm) s (shiftResult s (lo rdn) .lsr (s.x (lo rdn)) ((s.x (lo rm)).toNat % 256))) ∧
    (encodes16 (0b0100000100#10 ++ f3 rm ++ f3 rdn) (.asrsReg rdn rm) ∧
      runs (.asrsReg rdn rm) s (shiftResult s (lo rdn) .asr (s.x (lo rdn)) ((s.x (lo rm)).toNat % 256))) ∧
    (encodes16 (0b0100000111#10 ++ f3 rm ++ f3 rdn) (.rors rdn rm) ∧
      runs (.rors rdn rm) s (shiftResult s (lo rdn) .ror (s.x (lo rdn)) ((s.x (lo rm)).toNat % 256)))

/-- Spec 41 R111 to R114, R117, R118: ADDS and SUBS of registers and immediates. -/
def Obligations.AddSubtract : Prop :=
  ∀ (s : State) (rd rn rm : LowReg) (imm3 : BitVec 3) (imm8 : BitVec 8),
    (encodes16 (0b0001100#7 ++ f3 rm ++ f3 rn ++ f3 rd) (.addsReg rd rn rm) ∧
      runs (.addsReg rd rn rm) s (addResult s (lo rd) (s.x (lo rn)) (s.x (lo rm)) false)) ∧
    (encodes16 (0b0001101#7 ++ f3 rm ++ f3 rn ++ f3 rd) (.subsReg rd rn rm) ∧
      runs (.subsReg rd rn rm) s (subResult s (lo rd) (s.x (lo rn)) (s.x (lo rm)) false)) ∧
    (encodes16 (0b0001110#7 ++ imm3 ++ f3 rn ++ f3 rd) (.addsImm3 rd rn imm3) ∧
      runs (.addsImm3 rd rn imm3) s (addResult s (lo rd) (s.x (lo rn)) (BitVec.ofNat 32 imm3.toNat) false)) ∧
    (encodes16 (0b0001111#7 ++ imm3 ++ f3 rn ++ f3 rd) (.subsImm3 rd rn imm3) ∧
      runs (.subsImm3 rd rn imm3) s (subResult s (lo rd) (s.x (lo rn)) (BitVec.ofNat 32 imm3.toNat) false)) ∧
    (encodes16 (0b00110#5 ++ f3 rd ++ imm8) (.addsImm8 rd imm8) ∧
      runs (.addsImm8 rd imm8) s (addResult s (lo rd) (s.x (lo rd)) (BitVec.ofNat 32 imm8.toNat) false)) ∧
    (encodes16 (0b00111#5 ++ f3 rd ++ imm8) (.subsImm8 rd imm8) ∧
      runs (.subsImm8 rd imm8) s (subResult s (lo rd) (s.x (lo rd)) (BitVec.ofNat 32 imm8.toNat) false))

/-- Spec 42 R129, R130, R131: ADCS and SBCS take the C flag, RSBS subtracts from 0. -/
def Obligations.CarryArithmetic : Prop :=
  ∀ (s : State) (rd rm : LowReg),
    (encodes16 (0b0100000101#10 ++ f3 rm ++ f3 rd) (.adcs rd rm) ∧
      runs (.adcs rd rm) s (addResult s (lo rd) (s.x (lo rd)) (s.x (lo rm)) s.cpu.flags.c)) ∧
    (encodes16 (0b0100000110#10 ++ f3 rm ++ f3 rd) (.sbcs rd rm) ∧
      runs (.sbcs rd rm) s (subResult s (lo rd) (s.x (lo rd)) (s.x (lo rm)) (!s.cpu.flags.c))) ∧
    (encodes16 (0b0100001001#10 ++ f3 rm ++ f3 rd) (.rsbs rd rm) ∧
      runs (.rsbs rd rm) s (subResult s (lo rd) 0#32 (s.x (lo rm)) false))

/-- Spec 41 R116, 42 R132, R133, R136, 40 R103: the comparisons set the four flags and write no register. What exec does for a CMP hi that no
word decodes to is the model's choice (notes/assumptions/10.md). -/
def Obligations.ComparisonsWriteFlagsOnly : Prop :=
  ∀ (s : State) (rn rm : LowReg) (imm8 : BitVec 8) (n m : Reg),
    (encodes16 (0b00101#5 ++ f3 rn ++ imm8) (.cmpImm rn imm8) ∧
      runs (.cmpImm rn imm8) s (cmpResult s (s.x (lo rn)) (BitVec.ofNat 32 imm8.toNat))) ∧
    (encodes16 (0b0100001010#10 ++ f3 rm ++ f3 rn) (.cmpReg rn rm) ∧
      runs (.cmpReg rn rm) s (cmpResult s (s.x (lo rn)) (s.x (lo rm)))) ∧
    (encodes16 (0b0100001011#10 ++ f3 rm ++ f3 rn) (.cmn rn rm) ∧
      runs (.cmn rn rm) s fun t =>
        addFlags t.cpu.flags (s.x (lo rn) + s.x (lo rm)) (s.x (lo rn)) (s.x (lo rm)) false ∧
          t.stepCycles = 1 ∧ registerFrame s t []) ∧
    (((n.val < 8 ∧ m.val < 8) ∨ n = 15 ∨ m = 15 → refusedWord (hiWord 0b01#2 n m) none) ∧
      (¬((n.val < 8 ∧ m.val < 8) ∨ n = 15 ∨ m = 15) → encodes16 (hiWord 0b01#2 n m) (.cmpHi n m)) ∧
      runs (.cmpHi n m) s (cmpResult s (s.x n) (s.x m)))

/-- Spec 41 R115, 42 R119 to R124, R134: the moves, the logical operations and the multiplication set N and Z only; TST writes no
register. -/
def Obligations.LogicalSetsNZOnly : Prop :=
  ∀ (s : State) (rd rm : LowReg) (imm8 : BitVec 8),
    (encodes16 (0b00100#5 ++ f3 rd ++ imm8) (.movsImm rd imm8) ∧
      runs (.movsImm rd imm8) s (logicResult s (lo rd) (BitVec.ofNat 32 imm8.toNat))) ∧
    (encodes16 (0b0100000000#10 ++ f3 rm ++ f3 rd) (.ands rd rm) ∧
      runs (.ands rd rm) s (logicResult s (lo rd) (s.x (lo rd) &&& s.x (lo rm)))) ∧
    (encodes16 (0b0100000001#10 ++ f3 rm ++ f3 rd) (.eors rd rm) ∧
      runs (.eors rd rm) s (logicResult s (lo rd) (s.x (lo rd) ^^^ s.x (lo rm)))) ∧
    (encodes16 (0b0100001100#10 ++ f3 rm ++ f3 rd) (.orrs rd rm) ∧
      runs (.orrs rd rm) s (logicResult s (lo rd) (s.x (lo rd) ||| s.x (lo rm)))) ∧
    (encodes16 (0b0100001110#10 ++ f3 rm ++ f3 rd) (.bics rd rm) ∧
      runs (.bics rd rm) s (logicResult s (lo rd) (s.x (lo rd) &&& ~~~(s.x (lo rm))))) ∧
    (encodes16 (0b0100001111#10 ++ f3 rm ++ f3 rd) (.mvns rd rm) ∧
      runs (.mvns rd rm) s (logicResult s (lo rd) (~~~(s.x (lo rm))))) ∧
    (encodes16 (0b0100001101#10 ++ f3 rm ++ f3 rd) (.muls rd rm) ∧
      runs (.muls rd rm) s
        (logicResult s (lo rd) (BitVec.ofNat 32 ((s.x (lo rm)).toNat * (s.x (lo rd)).toNat)))) ∧
    (encodes16 (0b0100001000#10 ++ f3 rm ++ f3 rd) (.tst rd rm) ∧
      runs (.tst rd rm) s fun t =>
        nzFlags t.cpu.flags (s.x (lo rd) &&& s.x (lo rm)) ∧ keepsCV s t ∧ t.stepCycles = 1 ∧ registerFrame s t [])

/-- Spec 42 R135, R137: ADD and MOV of any registers set no flag; writing register 15 is a branch that ignores bit 0. What
exec does for ADD hi of both registers 15, which no word decodes to, is the model's choice (notes/assumptions/10.md). -/
def Obligations.HighRegister : Prop :=
  ∀ (s : State) (d m : Reg),
    (refusedWord (hiWord 0b00#2 15 15) none ∧
      (¬(d = 15 ∧ m = 15) → encodes16 (hiWord 0b00#2 d m) (.addHi d m)) ∧
      (d ≠ 15 → runs (.addHi d m) s (plainResult s d (s.x d + s.x m) 1)) ∧
      (d = 15 → runs (.addHi d m) s (branchResult s [] (s.x 15 + s.x m) 2))) ∧
    (encodes16 (hiWord 0b10#2 d m) (.movHi d m) ∧
      (d ≠ 15 → runs (.movHi d m) s (plainResult s d (s.x m) 1)) ∧
      (d = 15 → runs (.movHi d m) s (branchResult s [] (s.x m) 2)))

/-! ### Loads and stores (spec 43, 44) -/

/-- Spec 30 R69 for the memory forms and the PC and SP arithmetic, 10 R28: the scaled offsets as numbers, and the PC read value. -/
def Obligations.AddressForms : Prop :=
  ∀ (s : State) (rn rm : LowReg) (imm5 : BitVec 5) (imm8 : BitVec 8),
    regOffsetAddr s rn rm = s.x (lo rn) + s.x (lo rm) ∧
    wordImmAddr s rn imm5 = s.x (lo rn) + BitVec.ofNat 32 (4 * imm5.toNat) ∧
    halfImmAddr s rn imm5 = s.x (lo rn) + BitVec.ofNat 32 (2 * imm5.toNat) ∧
    byteImmAddr s rn imm5 = s.x (lo rn) + BitVec.ofNat 32 imm5.toNat ∧
    spAddr s imm8 = s.x 13 + BitVec.ofNat 32 (4 * imm8.toNat) ∧
    pcAddr s imm8 = BitVec.ofNat 32 (s.pc.toNat / 4 * 4) + BitVec.ofNat 32 (4 * imm8.toNat) ∧
    s.x 15 = s.addr + 4#32 ∧ s.pc = s.x 15

/-- Spec 43 R138, R142 to R146, R148, R150, R152, R154: a load raises AlignmentFault on a misaligned address, MemoryFault on an
aligned one outside the regions, and else gives the number there. The address of LDR (literal) is always aligned. -/
def Obligations.LoadsCompleteOrFault : Prop :=
  ∀ (s : State) (rt rn rm : LowReg) (imm5 : BitVec 5) (imm8 : BitVec 8), s.params.legal →
    (pcAddr s imm8).toNat % 4 = 0 ∧
    (encodes16 (0b01001#5 ++ f3 rt ++ imm8) (.ldrLit rt imm8) ∧
      loadRule (.ldrLit rt imm8) s (lo rt) (pcAddr s imm8) .word) ∧
    (encodes16 (0b0101100#7 ++ f3 rm ++ f3 rn ++ f3 rt) (.ldrReg rt rn rm) ∧
      loadRule (.ldrReg rt rn rm) s (lo rt) (regOffsetAddr s rn rm) .word) ∧
    (encodes16 (0b0101101#7 ++ f3 rm ++ f3 rn ++ f3 rt) (.ldrhReg rt rn rm) ∧
      loadRule (.ldrhReg rt rn rm) s (lo rt) (regOffsetAddr s rn rm) .half) ∧
    (encodes16 (0b0101110#7 ++ f3 rm ++ f3 rn ++ f3 rt) (.ldrbReg rt rn rm) ∧
      loadRule (.ldrbReg rt rn rm) s (lo rt) (regOffsetAddr s rn rm) .byte) ∧
    (encodes16 (0b0101111#7 ++ f3 rm ++ f3 rn ++ f3 rt) (.ldrshReg rt rn rm) ∧
      signedLoadRule (.ldrshReg rt rn rm) s (lo rt) (regOffsetAddr s rn rm) .half) ∧
    (encodes16 (0b0101011#7 ++ f3 rm ++ f3 rn ++ f3 rt) (.ldrsbReg rt rn rm) ∧
      signedLoadRule (.ldrsbReg rt rn rm) s (lo rt) (regOffsetAddr s rn rm) .byte) ∧
    (encodes16 (0b01101#5 ++ imm5 ++ f3 rn ++ f3 rt) (.ldrImm rt rn imm5) ∧
      loadRule (.ldrImm rt rn imm5) s (lo rt) (wordImmAddr s rn imm5) .word) ∧
    (encodes16 (0b01111#5 ++ imm5 ++ f3 rn ++ f3 rt) (.ldrbImm rt rn imm5) ∧
      loadRule (.ldrbImm rt rn imm5) s (lo rt) (byteImmAddr s rn imm5) .byte) ∧
    (encodes16 (0b10001#5 ++ imm5 ++ f3 rn ++ f3 rt) (.ldrhImm rt rn imm5) ∧
      loadRule (.ldrhImm rt rn imm5) s (lo rt) (halfImmAddr s rn imm5) .half) ∧
    (encodes16 (0b10011#5 ++ f3 rt ++ imm8) (.ldrSp rt imm8) ∧
      loadRule (.ldrSp rt imm8) s (lo rt) (spAddr s imm8) .word)

/-- Spec 43 R139, R140, R141, R147, R149, R151, R153: a store raises AlignmentFault on a misaligned address, MemoryFault on an
aligned one outside the data region, and else writes the low bytes of the register there and leaves every other byte alone. -/
def Obligations.StoresCompleteOrFault : Prop :=
  ∀ (s : State) (rt rn rm : LowReg) (imm5 : BitVec 5) (imm8 : BitVec 8), s.params.legal → s.mem.wf →
    (encodes16 (0b0101000#7 ++ f3 rm ++ f3 rn ++ f3 rt) (.strReg rt rn rm) ∧
      storeRule (.strReg rt rn rm) s (lo rt) (regOffsetAddr s rn rm) .word) ∧
    (encodes16 (0b0101001#7 ++ f3 rm ++ f3 rn ++ f3 rt) (.strhReg rt rn rm) ∧
      storeRule (.strhReg rt rn rm) s (lo rt) (regOffsetAddr s rn rm) .half) ∧
    (encodes16 (0b0101010#7 ++ f3 rm ++ f3 rn ++ f3 rt) (.strbReg rt rn rm) ∧
      storeRule (.strbReg rt rn rm) s (lo rt) (regOffsetAddr s rn rm) .byte) ∧
    (encodes16 (0b01100#5 ++ imm5 ++ f3 rn ++ f3 rt) (.strImm rt rn imm5) ∧
      storeRule (.strImm rt rn imm5) s (lo rt) (wordImmAddr s rn imm5) .word) ∧
    (encodes16 (0b01110#5 ++ imm5 ++ f3 rn ++ f3 rt) (.strbImm rt rn imm5) ∧
      storeRule (.strbImm rt rn imm5) s (lo rt) (byteImmAddr s rn imm5) .byte) ∧
    (encodes16 (0b10000#5 ++ imm5 ++ f3 rn ++ f3 rt) (.strhImm rt rn imm5) ∧
      storeRule (.strhImm rt rn imm5) s (lo rt) (halfImmAddr s rn imm5) .half) ∧
    (encodes16 (0b10010#5 ++ f3 rt ++ imm8) (.strSp rt imm8) ∧
      storeRule (.strSp rt imm8) s (lo rt) (spAddr s imm8) .word)

/-- Spec 44 R155: STM; it faults at its first bad word. What exec does for a list that no word decodes to is the model's choice
(notes/assumptions/10.md). -/
def Obligations.StoreMultiple : Prop :=
  ∀ (s : State) (rn : LowReg) (list : BitVec 8) (base : Word), s.params.legal → s.mem.wf → base = s.x (lo rn) →
    (list ≠ 0#8 → (list.getLsbD rn.val = true → ∀ j : LowReg, j < rn → list.getLsbD j.val = false) →
      encodes16 (0b11000#5 ++ f3 rn ++ list) (.stm rn list)) ∧
    (list = 0#8 → refusedWord (0b11000#5 ++ f3 rn ++ list) none) ∧
    (∀ j : LowReg, list.getLsbD rn.val = true → list.getLsbD j.val = true → j < rn →
      refusedWord (0b11000#5 ++ f3 rn ++ list) none) ∧
    (wordsWritable s base (bitCount list) →
      runs (.stm rn list) s fun t =>
        listStored s t list base ∧ t.x (lo rn) = base + BitVec.ofNat 32 (4 * bitCount list) ∧
        t.stepCycles = 1 + bitCount list ∧ storeFrame s t [lo rn] base (4 * bitCount list)) ∧
    (list ≠ 0#8 → base.toNat % 4 ≠ 0 → exec (.stm rn list) s = .fault (.alignmentFault base 4)) ∧
    (∀ k < bitCount list, base.toNat % 4 = 0 → wordsWritable s base k →
      inData s.params (wordAddr base k).toNat = false →
      exec (.stm rn list) s = .fault (.memoryFault (wordAddr base k) 4 .write))

/-- Spec 44 R156: LDM; it faults at its first bad word. What exec does for the empty list, which no word decodes to, is the model's choice
(notes/assumptions/10.md). -/
def Obligations.LoadMultiple : Prop :=
  ∀ (s : State) (rn : LowReg) (list : BitVec 8) (base : Word), s.params.legal → base = s.x (lo rn) →
    (list ≠ 0#8 → encodes16 (0b11001#5 ++ f3 rn ++ list) (.ldm rn list)) ∧
    (list = 0#8 → refusedWord (0b11001#5 ++ f3 rn ++ list) none) ∧
    (wordsReadable s base (bitCount list) →
      runs (.ldm rn list) s fun t =>
        listLoaded s t list base ∧
        (list.getLsbD rn.val = false → t.x (lo rn) = base + BitVec.ofNat 32 (4 * bitCount list)) ∧
        keepsFlags s t ∧ t.stepCycles = 1 + bitCount list ∧ registerFrame s t (lo rn :: maskRegs list)) ∧
    (list ≠ 0#8 → base.toNat % 4 ≠ 0 → exec (.ldm rn list) s = .fault (.alignmentFault base 4)) ∧
    (∀ k < bitCount list, base.toNat % 4 = 0 → wordsReadable s base k →
      mapped s.params (wordAddr base k).toNat = false →
      exec (.ldm rn list) s = .fault (.memoryFault (wordAddr base k) 4 .read))

/-- Spec 44 R157, 70 R256: PUSH, with M adding LR above the listed registers; its faults; at SP = 0 it faults, but for a
data region that ends at 2^32 under the reading `stores` of `PushAtZero`. That this reading and `faults`, with the address its fault
names, are a parameter is the model's choice (notes/assumptions/16.md), and so is what exec does for nothing to push, which no word
decodes to (notes/assumptions/10.md). -/
def Obligations.PushStoresBelowSp : Prop :=
  ∀ (s : State) (m : Bool) (list : BitVec 8) (n : Nat) (base : Word), s.params.legal → s.mem.wf →
    n = bitCount list + m.toNat → base = s.x 13 - BitVec.ofNat 32 (4 * n) →
    (n ≠ 0 → encodes16 (0b1011010#7 ++ BitVec.ofBool m ++ list) (.push m list)) ∧
    (n = 0 → refusedWord (0b1011010#7 ++ BitVec.ofBool m ++ list) none) ∧
    (wordsWritable s base n → ¬(s.x 13 = 0 ∧ s.params.pushAtZero = .faults) →
      runs (.push m list) s fun t =>
        listStored s t list base ∧ (m = true → t.word (wordAddr base (bitCount list)) = s.x 14) ∧
        t.x 13 = base ∧ t.stepCycles = 1 + n ∧ storeFrame s t [13] base (4 * n)) ∧
    (wordsWritable s base n → s.x 13 = 0 → s.params.pushAtZero = .faults →
      exec (.push m list) s = .fault (.memoryFault base 4 .write)) ∧
    (n ≠ 0 → s.x 13 = 0 → Config.ramBase + s.params.ramSize < 2 ^ 32 ∨ s.params.pushAtZero = .faults →
      ∃ a, exec (.push m list) s = .fault (.memoryFault a 4 .write)) ∧
    (n ≠ 0 → (s.x 13).toNat % 4 ≠ 0 → exec (.push m list) s = .fault (.alignmentFault base 4)) ∧
    (∀ k < n, (s.x 13).toNat % 4 = 0 → wordsWritable s base k → inData s.params (wordAddr base k).toNat = false →
      exec (.push m list) s = .fault (.memoryFault (wordAddr base k) 4 .write))

/-- Spec 44 R158: POP, without PC, and with PC to a target that is a branch, an interworking fault or an exception return; its
faults. What exec does for nothing to pop, which no word decodes to, is the model's choice (notes/assumptions/10.md). -/
def Obligations.PopLoadsFromSp : Prop :=
  ∀ (s : State) (p : Bool) (list : BitVec 8) (n : Nat) (target : Word), s.params.legal →
    n = bitCount list + p.toNat → target = s.word (wordAddr (s.x 13) (bitCount list)) →
    (n ≠ 0 → encodes16 (0b1011110#7 ++ BitVec.ofBool p ++ list) (.pop p list)) ∧
    (n = 0 → refusedWord (0b1011110#7 ++ BitVec.ofBool p ++ list) none) ∧
    (n ≠ 0 → (s.x 13).toNat % 4 ≠ 0 → exec (.pop p list) s = .fault (.alignmentFault (s.x 13) 4)) ∧
    (∀ k < n, (s.x 13).toNat % 4 = 0 → wordsReadable s (s.x 13) k →
      mapped s.params (wordAddr (s.x 13) k).toNat = false →
      exec (.pop p list) s = .fault (.memoryFault (wordAddr (s.x 13) k) 4 .read)) ∧
    (wordsReadable s (s.x 13) n →
      (p = false → runs (.pop p list) s fun t =>
        listLoaded s t list (s.x 13) ∧ t.x 13 = s.x 13 + BitVec.ofNat 32 (4 * n) ∧
        keepsFlags s t ∧ t.stepCycles = 1 + n ∧ registerFrame s t (13 :: maskRegs list)) ∧
      (p = true → target.extractLsb' 28 4 ≠ 0xF#4 → target.getLsbD 0 = true →
        runs (.pop p list) s fun t =>
          listLoaded s t list (s.x 13) ∧ t.x 13 = s.x 13 + BitVec.ofNat 32 (4 * n) ∧
          branchResult s (13 :: maskRegs list) target (1 + n + 1) t) ∧
      (p = true → target.extractLsb' 28 4 ≠ 0xF#4 → target.getLsbD 0 = false →
        exec (.pop p list) s = .fault (.unsupportedInterworking s.addr target)) ∧
      (p = true → target.extractLsb' 28 4 = 0xF#4 →
        wordsReadable s (s.x 13 + BitVec.ofNat 32 (4 * n)) 8 →
        (s.word (wordAddr (s.x 13 + BitVec.ofNat 32 (4 * n)) 7)).getLsbD 24 = true →
        runs (.pop p list) s fun t =>
          (∀ i : LowReg, 4 ≤ i.val → list.getLsbD i.val = true →
            t.x (lo i) = s.word (wordAddr (s.x 13) (placeIn list i.val))) ∧
          returnResult s (maskRegs list) (s.x 13 + BitVec.ofNat 32 (4 * n)) (1 + n + 1 + 8) t) ∧
      (p = true → target.extractLsb' 28 4 = 0xF#4 →
        ∃ u, exec (.pop p list) s = exceptionReturn u ∧ listLoaded s u list (s.x 13) ∧
          u.x 13 = s.x 13 + BitVec.ofNat 32 (4 * n) ∧ keepsFlags s u ∧ u.stepCycles = 1 + n + 1 ∧
          registerFrame s u (13 :: maskRegs list)))

/-- PUSH and then POP of one list gives every register its value back, and SP; with LR pushed and PC popped it returns to LR.
For nothing to push and pop, which no word decodes to, that both complete is the model's choice (notes/assumptions/10.md). -/
def Obligations.PushThenPop : Prop :=
  ∀ (s t : State) (m : Bool) (list : BitVec 8), s.params.legal → s.mem.wf → exec (.push m list) s = .next t →
    (m = true → (s.x 14).extractLsb' 28 4 ≠ 0xF#4 ∧ (s.x 14).getLsbD 0 = true) →
    ∃ u, exec (.pop m list) t = .next u ∧ (∀ r : Reg, r ≠ 15 → u.x r = s.x r) ∧
      (m = true → u.branchTaken = true ∧ u.cpu.pcReg = s.x 14) ∧
      (m = false → u.branchTaken = s.branchTaken ∧ u.cpu.pcReg = s.cpu.pcReg) ∧
      keepsFlags s u ∧ keepsControl s u

/-! ### Branches (spec 45) and the exception return (spec 60) -/

/-- Spec 45 R159, R160, R161: the offsets are signed numbers of halfwords from the PC read value; B<c> reads the flags; BL writes the
return address with bit 0 set. -/
def Obligations.BranchesToSignedOffset : Prop :=
  ∀ (s : State) (cond : Cond) (imm8 : BitVec 8) (imm11 : BitVec 11) (sb j1 j2 : BitVec 1) (imm10 : BitVec 10),
    (encodes16 (0b1101#4 ++ condField cond ++ imm8) (.bCond cond imm8) ∧
      (conditionPassed cond s.cpu.flags = true →
        runs (.bCond cond imm8) s (branchResult s [] (s.pc + BitVec.ofInt 32 (2 * imm8.toInt)) 2)) ∧
      (conditionPassed cond s.cpu.flags = false → runs (.bCond cond imm8) s (nopResult s 1))) ∧
    (encodes16 (0b11100#5 ++ imm11) (.b imm11) ∧
      runs (.b imm11) s (branchResult s [] (s.pc + BitVec.ofInt 32 (2 * imm11.toInt)) 2)) ∧
    (encodes32 (0b11110#5 ++ sb ++ imm10) (0b11#2 ++ j1 ++ 0b1#1 ++ j2 ++ imm11) (.bl sb imm10 j1 j2 imm11) ∧
      runs (.bl sb imm10 j1 j2 imm11) s fun t =>
        t.x 14 = s.pc ||| 1#32 ∧
        branchResult s [14]
          (s.pc + BitVec.ofInt 32 (-(2 : Int) ^ 24 * sb.toNat + (if j1 = sb then 2 ^ 23 else 0) +
            (if j2 = sb then 2 ^ 22 else 0) + 2 ^ 12 * imm10.toNat + 2 * imm11.toNat)) 3 t)

/-- Spec 45 R162, R163: BX and BLX. BX to a value with top nibble 1111 is the exception return of `ExceptionReturn`; BLX has no
such case, reads its target before it writes LR, and is refused for register 15. That `BX pc` with A + 4 of top nibble 1111 is an
exception return, as the pseudocode has it and against a Corner case of R162, is the model's choice (notes/assumptions/17.md), and so
is what exec does for BLX of register 15, which no word decodes to (notes/assumptions/10.md). -/
def Obligations.IndirectBranches : Prop :=
  ∀ (s : State) (m : Reg),
    (encodes16 (0b010001110#9 ++ f4 m ++ 0#3) (.bx m) ∧
      ((s.x m).extractLsb' 28 4 ≠ 0xF#4 → (s.x m).getLsbD 0 = true → runs (.bx m) s (branchResult s [] (s.x m) 2)) ∧
      ((s.x m).extractLsb' 28 4 ≠ 0xF#4 → (s.x m).getLsbD 0 = false →
        exec (.bx m) s = .fault (.unsupportedInterworking s.addr (s.x m))) ∧
      ((s.x m).extractLsb' 28 4 = 0xF#4 → exec (.bx m) s = exceptionReturn (s.charge 2))) ∧
    ((m ≠ 15 → encodes16 (0b010001111#9 ++ f4 m ++ 0#3) (.blx m)) ∧
      (m = 15 → refusedWord (0b010001111#9 ++ f4 m ++ 0#3) none) ∧
      ((s.x m).getLsbD 0 = true →
        runs (.blx m) s fun t => t.x 14 = (s.pc - 2#32) ||| 1#32 ∧ branchResult s [14] (s.x m) 3 t) ∧
      ((s.x m).getLsbD 0 = false → exec (.blx m) s = .fault (.unsupportedInterworking s.addr (s.x m))))

/-- Spec 60 R237, R238: BX of any value with top nibble 1111 is one exception return (for `BX pc` the model's choice,
notes/assumptions/17.md): it pops eight words, resumes at the popped address in Thread mode with the popped flags, and faults on a
misaligned frame, at its first unmapped word, and on a status word with bit 24 clear. -/
def Obligations.ExceptionReturn : Prop :=
  ∀ (s : State) (frame : Word), s.params.legal → frame = s.x 13 →
    (∀ m : Reg, (s.x m).extractLsb' 28 4 = 0xF#4 → exec (.bx m) s = exceptionReturn (s.charge 2)) ∧
    (wordsReadable s frame 8 → (s.word (wordAddr frame 7)).getLsbD 24 = true →
      ∃ t, exceptionReturn s = .next t ∧ returnResult s [] frame (s.stepCycles + 8) t) ∧
    (wordsReadable s frame 8 → (s.word (wordAddr frame 7)).getLsbD 24 = false →
      exceptionReturn s = .fault (.modeViolation ((s.word (wordAddr frame 6) &&& 0xFFFFFFFE#32) + 4#32))) ∧
    (frame.toNat % 4 ≠ 0 → exceptionReturn s = .fault (.alignmentFault frame 4)) ∧
    (∀ k < 8, frame.toNat % 4 = 0 → wordsReadable s frame k → mapped s.params (wordAddr frame k).toNat = false →
      exceptionReturn s = .fault (.memoryFault (wordAddr frame k) 4 .read))

/-! ### PC and SP arithmetic, extend, reverse, exit, hints, system (spec 46) -/

/-- Spec 46 R164 to R167: ADR and the SP arithmetic, without flags and without a forced alignment. -/
def Obligations.PcSpArithmetic : Prop :=
  ∀ (s : State) (rd : LowReg) (imm8 : BitVec 8) (imm7 : BitVec 7),
    (encodes16 (0b10100#5 ++ f3 rd ++ imm8) (.adr rd imm8) ∧
      runs (.adr rd imm8) s
        (plainResult s (lo rd) (BitVec.ofNat 32 (s.pc.toNat / 4 * 4) + BitVec.ofNat 32 (4 * imm8.toNat)) 1)) ∧
    (encodes16 (0b10101#5 ++ f3 rd ++ imm8) (.addSpRd rd imm8) ∧
      runs (.addSpRd rd imm8) s (plainResult s (lo rd) (s.x 13 + BitVec.ofNat 32 (4 * imm8.toNat)) 1)) ∧
    (encodes16 (0b101100000#9 ++ imm7) (.addSpImm7 imm7) ∧
      runs (.addSpImm7 imm7) s (plainResult s 13 (s.x 13 + BitVec.ofNat 32 (4 * imm7.toNat)) 1)) ∧
    (encodes16 (0b101100001#9 ++ imm7) (.subSpImm7 imm7) ∧
      runs (.subSpImm7 imm7) s (plainResult s 13 (s.x 13 - BitVec.ofNat 32 (4 * imm7.toNat)) 1))

/-- Spec 46 R168 to R174: the extensions as numbers, the reversals byte by byte; no flag. -/
def Obligations.ExtendReverse : Prop :=
  ∀ (s : State) (rd rm : LowReg),
    (encodes16 (0b1011001000#10 ++ f3 rm ++ f3 rd) (.sxth rd rm) ∧
      runs (.sxth rd rm) s
        (plainResult s (lo rd) (BitVec.ofInt 32 (BitVec.ofNat 16 (s.x (lo rm)).toNat).toInt) 1)) ∧
    (encodes16 (0b1011001001#10 ++ f3 rm ++ f3 rd) (.sxtb rd rm) ∧
      runs (.sxtb rd rm) s
        (plainResult s (lo rd) (BitVec.ofInt 32 (BitVec.ofNat 8 (s.x (lo rm)).toNat).toInt) 1)) ∧
    (encodes16 (0b1011001010#10 ++ f3 rm ++ f3 rd) (.uxth rd rm) ∧
      runs (.uxth rd rm) s (plainResult s (lo rd) (BitVec.ofNat 32 ((s.x (lo rm)).toNat % 2 ^ 16)) 1)) ∧
    (encodes16 (0b1011001011#10 ++ f3 rm ++ f3 rd) (.uxtb rd rm) ∧
      runs (.uxtb rd rm) s (plainResult s (lo rd) (BitVec.ofNat 32 ((s.x (lo rm)).toNat % 2 ^ 8)) 1)) ∧
    (encodes16 (0b1011101000#10 ++ f3 rm ++ f3 rd) (.rev rd rm) ∧
      runs (.rev rd rm) s fun t =>
        (∀ k < 4, (t.x (lo rd)).extractLsb' (8 * k) 8 = (s.x (lo rm)).extractLsb' (8 * (3 - k)) 8) ∧
          plainResult s (lo rd) (t.x (lo rd)) 1 t) ∧
    (encodes16 (0b1011101001#10 ++ f3 rm ++ f3 rd) (.rev16 rd rm) ∧
      runs (.rev16 rd rm) s fun t =>
        (∀ k < 4, (t.x (lo rd)).extractLsb' (8 * k) 8 =
          (s.x (lo rm)).extractLsb' (8 * (if k % 2 = 0 then k + 1 else k - 1)) 8) ∧
          plainResult s (lo rd) (t.x (lo rd)) 1 t) ∧
    (encodes16 (0b1011101011#10 ++ f3 rm ++ f3 rd) (.revsh rd rm) ∧
      runs (.revsh rd rm) s fun t =>
        (t.x (lo rd)).toInt = ((s.x (lo rm)).extractLsb' 0 8 ++ (s.x (lo rm)).extractLsb' 8 8).toInt ∧
          plainResult s (lo rd) (t.x (lo rd)) 1 t)

/-- Spec 46 R175, R176, 30 R80: BKPT sets the exit flag and nothing else, and the step does not advance past it; NOP does nothing
and advances by 2. -/
def Obligations.ExitAndNop : Prop :=
  ∀ (s : State) (imm8 : BitVec 8),
    (encodes16 (0b10111110#8 ++ imm8) (.bkpt imm8) ∧
      (∀ hw1 : Half, hw1 &&& 0xFF00#16 = 0xBE00#16 → ∃ k, decode hw1 none = .ok (.bkpt k)) ∧
      runs (.bkpt imm8) s (fun t =>
        t.exitFlag = true ∧ t.stepCycles = 1 ∧ keepsRegs s t [] ∧ keepsFlags s t ∧ keepsControl s t ∧ keepsPc s t ∧
          keepsBytes s t ∧ keepsLoop s t) ∧
      (s.cpu.pcReg.getLsbD 0 = true → fetch s = .ok (0b10111110#8 ++ imm8, none) →
        ∃ t, cpuStep s = .next t ∧ t.cpu = s.cpu ∧ t.exitFlag = true ∧ t.mem = s.mem)) ∧
    (encodes16 0xBF00#16 .nop ∧ runs .nop s (nopResult s 1) ∧
      (s.cpu.pcReg.getLsbD 0 = true → fetch s = .ok (0xBF00#16, none) →
        ∃ t, cpuStep s = .next t ∧ t.cpu = { s.cpu with pcReg := s.cpu.pcReg + 2#32 } ∧
          t.exitFlag = s.exitFlag ∧ t.mem = s.mem))

/-- Spec 46 R177, R180, R181, R182, R185, R186, R187: with SYSTEM_EXT, YIELD, SEV and the barriers change nothing, CPSIE clears PM
and CPSID sets it; without it, each is a MalformedInstruction. The spec refuses at decode; that these words decode and that
executing them raises the condition is the model's choice (notes/assumptions/9.md). -/
def Obligations.HintsBarriersCps : Prop :=
  ∀ s : State,
    (encodes16 0xBF10#16 .yield ∧ encodes16 0xBF40#16 .sev ∧ encodes16 0xB662#16 .cpsie ∧ encodes16 0xB672#16 .cpsid ∧
      encodes32 0xF3BF#16 0x8F4F#16 .dsb ∧ encodes32 0xF3BF#16 0x8F5F#16 .dmb ∧ encodes32 0xF3BF#16 0x8F6F#16 .isb) ∧
    (∀ (op : BitVec 3) (option : BitVec 4), op = 0b100#3 ∨ op = 0b101#3 ∨ op = 0b110#3 → option ≠ 0b1111#4 →
      refusedWord 0xF3BF#16 (some (0b100011110#9 ++ op ++ option))) ∧
    (s.params.systemExt = true →
      runs .yield s (nopResult s 1) ∧ runs .sev s (nopResult s 1) ∧
      runs .dsb s (nopResult s 3) ∧ runs .dmb s (nopResult s 3) ∧ runs .isb s (nopResult s 3) ∧
      (∀ (i : Instr) (b : Bool), (i = .cpsie ∧ b = false) ∨ (i = .cpsid ∧ b = true) →
        runs i s fun t => t.cpu.primask = b ∧ t.cpu.mode = s.cpu.mode ∧ t.cpu.pending = s.cpu.pending ∧
          t.stepCycles = 1 ∧ keepsRegs s t [] ∧ keepsFlags s t ∧ keepsPc s t ∧ keepsBytes s t ∧
          t.exitFlag = s.exitFlag ∧ keepsLoop s t)) ∧
    (s.params.systemExt = false →
      exec .yield s = .fault (.malformedInstruction s.addr 0xBF10#16 none) ∧
      exec .sev s = .fault (.malformedInstruction s.addr 0xBF40#16 none) ∧
      exec .cpsie s = .fault (.malformedInstruction s.addr 0xB662#16 none) ∧
      exec .cpsid s = .fault (.malformedInstruction s.addr 0xB672#16 none) ∧
      exec .dsb s = .fault (.malformedInstruction s.addr 0xF3BF#16 (some 0x8F4F#16)) ∧
      exec .dmb s = .fault (.malformedInstruction s.addr 0xF3BF#16 (some 0x8F5F#16)) ∧
      exec .isb s = .fault (.malformedInstruction s.addr 0xF3BF#16 (some 0x8F6F#16)))

/-- Spec 46 R183: MRS of each special register; the words that name none, or a register it may not write, are refused. The model's
choices: without SYSTEM_EXT the word decodes and its execution raises the condition (notes/assumptions/9.md), and what the
execution does for Rd = 13, which no word decodes to (notes/assumptions/10.md). -/
def Obligations.ReadSpecialRegister : Prop :=
  ∀ (s : State) (rd : Reg) (r : SysReg),
    (rd ≠ 13 → rd ≠ 15 → encodes32 0xF3EF#16 (0b1000#4 ++ f4 rd ++ sysmField r) (.mrs rd r)) ∧
    (∀ sysm : BitVec 8, rd = 13 ∨ rd = 15 ∨ (∀ q, sysm ≠ sysmField q) →
      refusedWord 0xF3EF#16 (some (0b1000#4 ++ f4 rd ++ sysm))) ∧
    (s.params.systemExt = true → rd ≠ 15 → runs (.mrs rd r) s
      (plainResult s rd (match r with
        | .apsr | .iapsr | .eapsr | .xpsr => BitVec.ofNat 32 (s.cpu.flags.n.toNat * 2 ^ 31 +
            s.cpu.flags.z.toNat * 2 ^ 30 + s.cpu.flags.c.toNat * 2 ^ 29 + s.cpu.flags.v.toNat * 2 ^ 28)
        | .ipsr | .epsr | .iepsr | .control => 0#32
        | .msp => s.x 13
        | .primask => BitVec.ofNat 32 s.cpu.primask.toNat) 3)) ∧
    (s.params.systemExt = false →
      exec (.mrs rd r) s = .fault (.malformedInstruction s.addr 0xF3EF#16 (some (0b1000#4 ++ f4 rd ++ sysmField r))))

/-- Spec 46 R184: MSR of each special register. The model's choices: without SYSTEM_EXT the word decodes and its execution raises the
condition (notes/assumptions/9.md), and what the execution does for Rn = 13 and Rn = 15, which no word decodes to
(notes/assumptions/10.md). -/
def Obligations.WriteSpecialRegister : Prop :=
  ∀ (s : State) (rn : Reg) (r : SysReg) (v : Word), v = s.x rn →
    (rn ≠ 13 → rn ≠ 15 → encodes32 (0b111100111000#12 ++ f4 rn) (0b10001000#8 ++ sysmField r) (.msr r rn)) ∧
    (∀ sysm : BitVec 8, rn = 13 ∨ rn = 15 ∨ (∀ q, sysm ≠ sysmField q) →
      refusedWord (0b111100111000#12 ++ f4 rn) (some (0b10001000#8 ++ sysm))) ∧
    (s.params.systemExt = true →
      (r = .apsr ∨ r = .iapsr ∨ r = .eapsr ∨ r = .xpsr → runs (.msr r rn) s fun t =>
        t.cpu.flags = ⟨v.getLsbD 31, v.getLsbD 30, v.getLsbD 29, v.getLsbD 28⟩ ∧ t.stepCycles = 3 ∧
          registerFrame s t []) ∧
      (r = .ipsr ∨ r = .epsr ∨ r = .iepsr ∨ (r = .control ∧ v.getLsbD 1 = false) →
        runs (.msr r rn) s (nopResult s 3)) ∧
      (r = .msp → runs (.msr r rn) s (plainResult s 13 (v &&& 0xFFFFFFFC#32) 3)) ∧
      (r = .primask → runs (.msr r rn) s fun t =>
        t.cpu.primask = v.getLsbD 0 ∧ t.cpu.mode = s.cpu.mode ∧ t.cpu.pending = s.cpu.pending ∧ t.stepCycles = 3 ∧
          keepsRegs s t [] ∧ keepsFlags s t ∧ keepsPc s t ∧ keepsBytes s t ∧ t.exitFlag = s.exitFlag ∧ keepsLoop s t) ∧
      (r = .control → v.getLsbD 1 = true → exec (.msr r rn) s =
        .fault (.malformedInstruction s.addr (0b111100111000#12 ++ f4 rn) (some (0b10001000#8 ++ sysmField r))))) ∧
    (s.params.systemExt = false → exec (.msr r rn) s =
      .fault (.malformedInstruction s.addr (0b111100111000#12 ++ f4 rn) (some (0b10001000#8 ++ sysmField r))))

/-- Spec 46 R178, R179, R188, R189, R190: WFE, WFI, SVC, UDF and UDF.W are always refused, with A and the words. The spec refuses at
decode; that the words decode to instructions whose execution raises the condition is the model's choice
(notes/assumptions/9.md). -/
def Obligations.AlwaysRefused : Prop :=
  ∀ (s : State) (imm8 : BitVec 8) (imm4 : BitVec 4) (imm12 : BitVec 12),
    (encodes16 0xBF20#16 .wfe ∧ exec .wfe s = .fault (.malformedInstruction s.addr 0xBF20#16 none)) ∧
    (encodes16 0xBF30#16 .wfi ∧ exec .wfi s = .fault (.malformedInstruction s.addr 0xBF30#16 none)) ∧
    (encodes16 (0b11011111#8 ++ imm8) (.svc imm8) ∧
      exec (.svc imm8) s = .fault (.malformedInstruction s.addr (0b11011111#8 ++ imm8) none)) ∧
    (encodes16 (0b11011110#8 ++ imm8) (.udf imm8) ∧
      exec (.udf imm8) s = .fault (.malformedInstruction s.addr (0b11011110#8 ++ imm8) none)) ∧
    (encodes32 (0b111101111111#12 ++ imm4) (0b1010#4 ++ imm12) (.udfW imm4 imm12) ∧
      exec (.udfW imm4 imm12) s =
        .fault (.malformedInstruction s.addr (0b111101111111#12 ++ imm4) (some (0b1010#4 ++ imm12))))

/-! ### One step (spec 40, 60) -/

/-- Spec 40 R84, R85, R93, R95: what a step faults on before it executes, in order, with the address and the halfwords. -/
def Obligations.FaultsBeforeExecute : Prop :=
  ∀ s : State,
    (s.cpu.pcReg.getLsbD 0 = false → cpuStep s = .fault (.modeViolation s.cpu.pcReg)) ∧
    (s.cpu.pcReg.getLsbD 0 = true →
      (∀ f, fetchHalf s s.addr = .error f → cpuStep s = .fault f) ∧
      (∀ hw1, fetchHalf s s.addr = .ok hw1 → isWide hw1 = true →
        (∀ f, fetchHalf s (s.addr + 2#32) = .error f → cpuStep s = .fault f) ∧
        (∀ hw2, fetchHalf s (s.addr + 2#32) = .ok hw2 → refusedWord hw1 (some hw2) →
          cpuStep s = .fault (.malformedInstruction s.addr hw1 (some hw2)))) ∧
      (∀ hw1, fetchHalf s s.addr = .ok hw1 → isWide hw1 = false → refusedWord hw1 none →
        cpuStep s = .fault (.malformedInstruction s.addr hw1 none)))

/-- When the fetched halfwords decode to an instruction, a CPU step is its execution, with branch_taken cleared before it and the
advance after it; and a step of the machine in a tick that is or becomes active is that CPU step, with the tick's
bookkeeping after it. That one step of the machine is one tick is the model's choice (notes/assumptions/1.md). -/
def Obligations.StepRunsDecodedInstruction : Prop :=
  (∀ (s : State) (hw1 : Half) (hw2 : Option Half) (i : Instr), s.cpu.pcReg.getLsbD 0 = true →
    fetch s = .ok (hw1, hw2) → decode hw1 hw2 = .ok i →
    (∀ t, exec i (s.setBranchTaken false) = .next t → cpuStep s = .next (advance i t)) ∧
    (∀ f, exec i (s.setBranchTaken false) = .fault f → cpuStep s = .fault f)) ∧
  (∀ (s r : State) (c : Nat), s.exitFlag = false → transition s = .ok (r, c) → r.loop.power = .active →
    (∀ t, cpuStep r = .next t → step s = .next (closeTick (retire c t).2 (retire c t).1)) ∧
    (∀ f, cpuStep r = .fault f → step s = .fault f))

/-- Spec 40 R88, R106: the advance: none for the exit instruction, 4 after a taken branch, else the width; a taken branch to T ends
with the next instruction at T with bit 0 clear; nothing else changes. -/
def Obligations.AdvanceByWidthOrBranch : Prop :=
  ∀ (s u : State) (hw1 : Half) (hw2 : Option Half) (i : Instr), s.cpu.pcReg.getLsbD 0 = true →
    fetch s = .ok (hw1, hw2) → decode hw1 hw2 = .ok i → exec i (s.setBranchTaken false) = .next u →
    ∃ t, cpuStep s = .next t ∧
      ((∃ k, i = .bkpt k) → t = u) ∧
      ((∀ k, i ≠ .bkpt k) → u.branchTaken = true → t = u.setPcReg (u.cpu.pcReg + 4#32)) ∧
      ((∀ k, i ≠ .bkpt k) → u.branchTaken = false →
        t = u.setPcReg (u.cpu.pcReg + (if hw2.isSome then 4#32 else 2#32))) ∧
      (∀ target : Word, u.cpu.pcReg = (target &&& 0xFFFFFFFE#32) ||| 1#32 → u.branchTaken = true →
        t.cpu.pcReg = (target &&& 0xFFFFFFFE#32) + 5#32 ∧ t.addr = target &&& 0xFFFFFFFE#32)

/-- Spec 10 R26: between steps the stored PC keeps its Thumb-mode bit, and the address of the next instruction is even. -/
def Obligations.ThumbBitKept : Prop :=
  ∀ s t : State, cpuStep s = .next t → s.cpu.pcReg.getLsbD 0 = true ∧ t.cpu.pcReg.getLsbD 0 = true ∧
    t.addr.toNat % 2 = 0 ∧ t.cpu.pcReg = (t.addr + 4#32) ||| 1#32

/-- Spec 10 R42: the behaviour of the core is a function of the CPU State and the memory (and the parameters): two states that agree
there step alike, whatever the loop, the scheme, the battery and the signals of the step before hold. -/
def Obligations.CoreIsAFunctionOfCpuAndMemory : Prop :=
  ∀ s s' : State, s'.cpu = s.cpu → s'.mem = s.mem → s'.params = s.params → s'.exitFlag = s.exitFlag →
    (∀ t, cpuStep s = .next t → ∃ t', cpuStep s' = .next t' ∧ t'.cpu = t.cpu ∧ t'.mem = t.mem ∧
      t'.exitFlag = t.exitFlag ∧ t'.stepCycles = t.stepCycles) ∧
    (∀ f, cpuStep s = .fault f → cpuStep s' = .fault f)

/-- Spec 10 R34, R35, R36, R32: which instructions write PM, the mode, `pending` and each flag, over all instructions. -/
def Obligations.StatusWriters : Prop :=
  ∀ (i : Instr) (s t : State), exec i s = .next t →
    (t.cpu.primask ≠ s.cpu.primask → s.params.systemExt = true ∧
      ((i = .cpsie ∧ t.cpu.primask = false) ∨ (i = .cpsid ∧ t.cpu.primask = true) ∨
        ∃ rn, i = .msr .primask rn ∧ t.cpu.primask = (s.x rn).getLsbD 0)) ∧
    (t.cpu.mode ≠ s.cpu.mode → t.cpu.mode = .thread ∧ returnsFromException i s) ∧
    t.cpu.pending = s.cpu.pending ∧
    (¬returnsFromException i s →
      (writesNZCV i = false → t.cpu.flags.v = s.cpu.flags.v) ∧
      (writesNZCV i = false → writesNZC i = false → t.cpu.flags.c = s.cpu.flags.c) ∧
      (writesNZCV i = false → writesNZC i = false → writesNZ i = false → t.cpu.flags = s.cpu.flags))

/-- Spec 60 R231, R233: no instruction raises a fatal condition but for the causes of the table, with the information it names, and none
is left without a meaning. That the refused rows raise MalformedInstruction when they execute is the model's choice
(notes/assumptions/9.md), and so are what exec does for an ill-formed term, which no word decodes to (notes/assumptions/10.md), and the fault of
a PUSH at SP = 0 under the reading `faults` of `PushAtZero` (notes/assumptions/16.md). -/
def Obligations.FaultCauses : Prop :=
  ∀ (i : Instr) (s : State),
    (∀ r, exec i s ≠ .refused r) ∧
    (∀ f, exec i s = .fault f →
      match f with
      | .malformedInstruction a hw1 hw2 => a = s.addr ∧ encode i = (hw1, hw2) ∧
          (isRefusedRow i = true ∨ (isSystemRow i = true ∧ s.params.systemExt = false) ∨
            ∃ rn, i = .msr .control rn ∧ (s.x rn).getLsbD 1 = true)
      | .unsupportedInterworking a target => a = s.addr ∧ target.getLsbD 0 = false ∧
          ((branchValue i s = some target ∧ target.extractLsb' 28 4 ≠ 0xF#4) ∨ ∃ rm, i = .blx rm ∧ target = s.x rm)
      | .modeViolation pcReg => returnsFromException i s ∧ ∃ frame, returnFrame i s = some frame ∧
          (s.word (wordAddr frame 7)).getLsbD 24 = false ∧
          pcReg = (s.word (wordAddr frame 6) &&& 0xFFFFFFFE#32) + 4#32
      | .memoryFault addr n access => accessesMemory i = true ∧ (n = 1 ∨ n = 2 ∨ n = 4) ∧ addr.toNat % n = 0 ∧
          ((access = .read ∧ ∃ k < n, mapped s.params (byteAddr addr k) = false) ∨
            (access = .write ∧ ∃ k < n, inData s.params (byteAddr addr k) = false) ∨
            (access = .write ∧ s.x 13 = 0 ∧ s.params.pushAtZero = .faults ∧ ∃ m list, i = .push m list ∧
              addr = s.x 13 - BitVec.ofNat 32 (4 * (bitCount list + m.toNat))))
      | .alignmentFault addr n => accessesMemory i = true ∧ (n = 2 ∨ n = 4) ∧ addr.toNat % n ≠ 0
      | .noForwardProgress _ _ => False
      | .imageLoadFailure _ _ => False)

/-! ### The checkpoint engine and the simulation loop (spec 48, 49) -/

/-- Spec 48 R194, R195, R197, R198, R202, 20 R65: backup copies the whole CPU State into the one slot, restore brings it back and empties the
slot, whatever happened to the CPU in between; a restore of an empty slot changes nothing; memory is in neither. Those of
the reference scheme return 0 cycles and leave the stored energy as it was, in every number type. -/
def Obligations.BackupAndRestore : Prop :=
  ∀ s u : State,
    (s.backup.2.scheme.slot = some s.cpu ∧ s.backup.2.cpu = s.cpu ∧ s.backup.2.mem = s.mem ∧
      s.backup.2.exitFlag = s.exitFlag ∧ s.backup.2.loop = s.loop) ∧
    (s.restore.2.scheme.slot = none ∧ s.restore.2.mem = s.mem ∧ s.restore.2.exitFlag = s.exitFlag ∧
      s.restore.2.loop = s.loop ∧ (s.scheme.slot = none → s.restore.2.cpu = s.cpu) ∧
      (∀ c, s.scheme.slot = some c → s.restore.2.cpu = c)) ∧
    (u.scheme.slot = s.backup.2.scheme.slot → u.restore.2.cpu = s.cpu ∧ u.restore.2.mem = u.mem) ∧
    (∀ c, { s.backup.2 with cpu := c }.backup.2.restore.2.cpu = c) ∧
    (∀ p, s.scheme.policy = .program p → p.reference →
      s.backup.1 = 0 ∧ s.backup.2.battery.stored = s.battery.stored ∧
      s.restore.1 = 0 ∧ s.restore.2.battery.stored = s.battery.stored)

/-- Spec 48 R204, 49 R205, R213: what a call of a scheme's method depends on and what it leaves alone. Its result, the private state and
the energy it leaves are functions of what the scheme owns and of the method's arguments; it writes no memory, no exit_flag and no
loop state, and only restore writes the CPU State. `clock_frequency()` and `battery()` are calls like the others. That no method changes the form of the capacitor and of the charging is the model's
choice (notes/assumptions/3.md). -/
def Obligations.SchemeCalls : Prop :=
  ∀ s s' : State, s'.scheme = s.scheme → s'.battery = s.battery → s'.num = s.num →
    (s'.cpu = s.cpu → s'.stats = s.stats →
      s'.isActive.1 = s.isActive.1 ∧ s'.isActive.2.scheme = s.isActive.2.scheme ∧
      s'.willBackup.1 = s.willBackup.1 ∧ s'.willBackup.2.scheme = s.willBackup.2.scheme) ∧
    (s'.cpu = s.cpu → s'.stepCycles = s.stepCycles →
      s'.executeInstruction.scheme = s.executeInstruction.scheme ∧
      s'.executeInstruction.battery = s.executeInstruction.battery) ∧
    (s'.cpu = s.cpu →
      s'.backup.1 = s.backup.1 ∧ s'.backup.2.scheme = s.backup.2.scheme ∧ s'.backup.2.battery = s.backup.2.battery ∧
      s'.restore.1 = s.restore.1 ∧ s'.restore.2.cpu = s.restore.2.cpu ∧ s'.restore.2.scheme = s.restore.2.scheme ∧
      s'.restore.2.battery = s.restore.2.battery) ∧
    (∀ p, (s'.estimateProgress p).1 = (s.estimateProgress p).1 ∧
      (s'.estimateProgress p).2.scheme = (s.estimateProgress p).2.scheme) ∧
    (s'.clockFrequency.1 = s.clockFrequency.1 ∧ s'.clockFrequency.2.scheme = s.clockFrequency.2.scheme ∧
      s'.askBattery.scheme = s.askBattery.scheme) ∧
    (∀ t : State, t = s.isActive.2 ∨ t = s.willBackup.2 ∨ (∃ p, t = (s.estimateProgress p).2) ∨
        t = s.clockFrequency.2 ∨ t = s.askBattery →
      t.battery = s.battery ∧ t.scheme.slot = s.scheme.slot) ∧
    (∀ t : State, t = s.isActive.2 ∨ t = s.willBackup.2 ∨ t = s.executeInstruction ∨ t = s.backup.2 ∨
        (∃ p, t = (s.estimateProgress p).2) ∨ t = s.clockFrequency.2 ∨ t = s.askBattery ∨ t = s.restore.2 →
      t.mem = s.mem ∧ t.exitFlag = s.exitFlag ∧ t.loop = s.loop ∧ t.env = s.env ∧ t.params = s.params ∧
      t.scheme.clockFrequency = s.scheme.clockFrequency ∧ t.battery.capacitor = s.battery.capacitor ∧
      t.battery.charging = s.battery.charging ∧
      (t = s.restore.2 ∨ t.cpu = s.cpu))

/-- Spec 49 R216: Inactive to Active. The first activation restores nothing and uses the first record; a later one restores,
opens a period record that pays for the restore, and starts it at the cycle count before it. Where the loop calls `battery()` around the
restore (`useBattery`) is the model's choice (notes/assumptions/15.md). -/
def Obligations.Activation : Prop :=
  ∀ s : State, s.loop.power = .inactive → s.isActive.1 = true →
    ∃ r c, transition s = .ok (r, c) ∧ r.loop.power = .active ∧ r.loop.first = false ∧ r.loop.elapsed = s.loop.elapsed ∧
      r.mem = s.mem ∧ r.loop.cur.cycleStart = s.loop.elapsed ∧ r.loop.noProgress = s.loop.noProgress ∧
      (s.loop.first = true → c = 0 ∧ r.cpu = s.cpu ∧ r.scheme = s.isActive.2.scheme ∧ r.battery = s.battery ∧
        r.loop.finished = s.loop.finished ∧ r.loop.cur = { s.loop.cur with cycleStart := s.loop.elapsed }) ∧
      (s.loop.first = false → c = s.isActive.2.useBattery.restore.1 ∧
        r.scheme = s.isActive.2.useBattery.restore.2.useBattery.scheme ∧
        r.battery = s.isActive.2.useBattery.restore.2.battery ∧ r.scheme.slot = none ∧
        (s.scheme.slot = none → r.cpu = s.cpu) ∧ (∀ saved, s.scheme.slot = some saved → r.cpu = saved) ∧
        r.loop.finished = s.loop.periods ∧
        r.loop.cur = { Period.new with
          cycleStart := s.loop.elapsed
          restoreCycles := c
          energyRestore := s.num.sub s.battery.stored r.battery.stored })

/-- Spec 49 R217: Active to Inactive. The fifth consecutive period without a backup is fatal; otherwise the count is raised or
reset, the period is finalized and the tick is idle. -/
def Obligations.Deactivation : Prop :=
  ∀ (s : State) (total : Quantity), s.exitFlag = false → s.loop.power = .active → s.isActive.1 = false →
    total = s.num.add (s.num.add s.loop.cur.energyInstructions s.loop.cur.energyBackup) s.loop.cur.energyRestore →
    (s.loop.cur.backups = 0 → 5 ≤ s.loop.noProgress + 1 →
      step s = .fault (.noForwardProgress s.loop.periods.length s.loop.elapsed)) ∧
    (s.loop.cur.backups ≠ 0 ∨ s.loop.noProgress + 1 < 5 →
      ∃ t p, step s = .next t ∧ t.loop.power = .inactive ∧ t.cpu = s.cpu ∧ t.mem = s.mem ∧ t.scheme.slot = s.scheme.slot ∧
        t.loop.noProgress = (if s.loop.cur.backups = 0 then s.loop.noProgress + 1 else 0) ∧
        t.loop.elapsed = s.loop.elapsed + s.params.idleTickCycles ∧ t.loop.finished = s.loop.finished ∧
        p = { s.loop.cur with
          energyTotal := total
          progress := if s.num.isZero total then none else some (s.num.div s.loop.cur.fpEnergy total) } ∧
        t.loop.cur = { p with estimatedProgress := some (s.isActive.2.estimateProgress p).1 })

/-- Spec 49 R218, R223: a tick that stays active runs one step, accounts its instruction, backs up if the scheme says so, and, when
the instruction was the exit, finalizes the period and the run. Here `u` is the state after the step, `v` after
`execute_instruction`, `a` after its accounting, `w` after `will_backup`, `z` after the backup if there is one, and every
energy is the energy stored before a call minus the energy stored after it. The private state at the end of the tick is what the calls of
`clock_frequency()` and `battery()` leave. Where the loop calls `battery()` (`useBattery`, `memoAtEnd`) is the model's choice
(notes/assumptions/15.md). -/
def Obligations.ActiveTick : Prop :=
  ∀ (s u v a w z : State) (cb tc : Nat), s.exitFlag = false → s.loop.power = .active → s.isActive.1 = true →
    cpuStep s.isActive.2 = .next u → v = u.useBattery.executeInstruction.useBattery →
    a = v.setCur { s.loop.cur with
      instructions := s.loop.cur.instructions + 1
      instructionCycles := s.loop.cur.instructionCycles + u.stepCycles
      energyInstructions := s.num.add s.loop.cur.energyInstructions (s.num.sub s.battery.stored v.battery.stored) } →
    w = a.willBackup.2 → (cb, z) = (if a.willBackup.1 then (w.useBattery.backup.1, w.useBattery.backup.2.useBattery) else (0, w)) → tc = u.stepCycles + cb →
    ∃ t, step s = .next t ∧ t.cpu = u.cpu ∧ t.mem = u.mem ∧ t.exitFlag = u.exitFlag ∧ t.loop.power = .active ∧
      t.loop.elapsed = s.loop.elapsed + tc ∧ t.loop.finished = s.loop.finished ∧ t.loop.noProgress = s.loop.noProgress ∧
      t.loop.cur.cycleStart = s.loop.cur.cycleStart ∧
      t.loop.cur.instructions = a.loop.cur.instructions ∧
      t.loop.cur.instructionCycles = a.loop.cur.instructionCycles ∧
      t.loop.cur.energyInstructions = a.loop.cur.energyInstructions ∧
      t.loop.cur.restoreCycles = s.loop.cur.restoreCycles ∧ t.loop.cur.energyRestore = s.loop.cur.energyRestore ∧
      (a.willBackup.1 = false → t.loop.cur.backups = s.loop.cur.backups ∧
        t.loop.cur.backupCycles = s.loop.cur.backupCycles ∧ t.loop.cur.energyBackup = s.loop.cur.energyBackup ∧
        t.loop.cur.fpEnergy = s.loop.cur.fpEnergy ∧ t.loop.cur.fpCycles = s.loop.cur.fpCycles) ∧
      (a.willBackup.1 = true → t.loop.cur.backups = s.loop.cur.backups + 1 ∧
        t.loop.cur.backupCycles = s.loop.cur.backupCycles + cb ∧
        t.loop.cur.energyBackup =
          s.num.add s.loop.cur.energyBackup (s.num.sub v.battery.stored z.battery.stored) ∧
        t.loop.cur.fpEnergy = t.loop.cur.energyInstructions ∧
        t.loop.cur.fpCycles = t.loop.elapsed - s.loop.cur.cycleStart) ∧
      (s.params.alwaysHarvest = false → t.battery = z.battery) ∧
      t.scheme.memo = z.memoAtEnd t ∧
      (u.exitFlag = false → t.loop.totals.finalEnergyStored = s.loop.totals.finalEnergyStored ∧
        t.scheme.slot = (if a.willBackup.1 then some u.cpu else s.scheme.slot) ∧
        t.loop.cur.energyTotal = s.loop.cur.energyTotal ∧ t.loop.cur.progress = s.loop.cur.progress ∧
        t.loop.cur.estimatedProgress = s.loop.cur.estimatedProgress) ∧
      (u.exitFlag = true → t.loop.totals.finalEnergyStored = some t.battery.stored ∧
        t.loop.cur.energyTotal = s.num.add (s.num.add t.loop.cur.energyInstructions t.loop.cur.energyBackup)
          t.loop.cur.energyRestore ∧
        t.loop.cur.progress = (if s.num.isZero t.loop.cur.energyTotal then none
          else some (s.num.div t.loop.cur.fpEnergy t.loop.cur.energyTotal)) ∧
        t.loop.cur.estimatedProgress = none ∧
        ∀ n, runTicks (n + 1) s = .completed t)

/-- Spec 49 R219, 60 R248: an inactive tick steps nothing, lasts IDLE_TICK_CYCLES cycles and leaves the CPU State, memory, the slot and
the period records alone. -/
def Obligations.IdleTick : Prop :=
  ∀ s : State, s.exitFlag = false → s.loop.power = .inactive → s.isActive.1 = false →
    ∃ t, step s = .next t ∧ t.cpu = s.cpu ∧ t.mem = s.mem ∧ t.scheme.slot = s.scheme.slot ∧ t.exitFlag = false ∧
      t.loop.power = .inactive ∧ t.loop.first = s.loop.first ∧ t.loop.periods = s.loop.periods ∧
      t.loop.noProgress = s.loop.noProgress ∧ t.loop.elapsed = s.loop.elapsed + s.params.idleTickCycles

/-- Spec 49 R220, R221, R222: how every tick ends: the harvest of what the battery accepts of `rate * tc` when the tick ends Inactive
or ALWAYS_HARVEST is set, the time, and at most one sample. `b` is the battery as the scheme's methods of the tick have left it:
as it was before a tick that ends Inactive. What it accepts is `Battery.accepts` of the model (notes/assumptions/3.md); the
capacitance of a sample is the battery's after the harvest. After an idle tick the private state is what the calls of
`clock_frequency()` and `battery()` leave; where the loop calls `battery()` is the model's choice (notes/assumptions/15.md). -/
def Obligations.TickEnd : Prop :=
  ∀ s t : State, s.exitFlag = false → step s = .next t →
    ∃ (b : Battery) (tc : Nat), t.loop.elapsed = s.loop.elapsed + tc ∧
      b = { s.battery with stored := b.stored, events := b.events } ∧ (t.loop.power = .inactive → b = s.battery) ∧
      (t.loop.power = .active → s.params.alwaysHarvest = false →
        t.battery = b ∧ t.loop.totals.energyHarvested = s.loop.totals.energyHarvested) ∧
      (t.loop.power = .inactive ∨ s.params.alwaysHarvest = true →
        ∃ accepted, accepted = b.accepts s.num (s.num.mul s.loop.rate (s.num.ofNat tc)) ∧
          t.loop.totals.energyHarvested = s.num.add s.loop.totals.energyHarvested accepted ∧
          t.battery = { b with stored := s.num.add b.stored accepted, events := b.events + 1 } ∧
          (s.num = .rational → 0 ≤ s.loop.rate → 0 ≤ accepted ∧ accepted ≤ s.loop.rate * tc)) ∧
      t.loop.time = s.num.div (s.num.ofNat t.loop.elapsed) s.scheme.clockFrequency ∧
      (s.num.le s.loop.nextSample t.loop.time = true →
        t.loop.voltage = s.env.getVoltage t.loop.time ∧
        t.loop.rate = s.env.chargingRate s.num t.loop.voltage t.battery.capacitance ∧
        t.loop.nextSample = s.num.add s.loop.nextSample s.env.samplePeriod) ∧
      (s.num.le s.loop.nextSample t.loop.time = false →
        t.loop.voltage = s.loop.voltage ∧ t.loop.rate = s.loop.rate ∧ t.loop.nextSample = s.loop.nextSample) ∧
      (s.loop.power = .inactive → t.loop.power = .inactive → t.scheme.memo = s.isActive.2.memoAtEnd t)

/-- Spec 49 R227 with 48 R201, where `Num` is the exact rationals (R209): energy is conserved by every step: the energy stored, plus what
all periods spent, minus what was harvested, never changes; and a tick harvests at most what it offers. That stored
energy stays >= 0 is the model's clamp of what a method asks for (notes/assumptions/3.md). -/
def Obligations.EnergyConserved : Prop :=
  ∀ s t : State, s.num = .rational → step s = .next t →
    t.battery.stored + t.loop.spent - t.loop.totals.energyHarvested =
      s.battery.stored + s.loop.spent - s.loop.totals.energyHarvested ∧
    (0 ≤ s.loop.rate → s.loop.totals.energyHarvested ≤ t.loop.totals.energyHarvested ∧
      t.loop.totals.energyHarvested - s.loop.totals.energyHarvested ≤
        s.loop.rate * ((t.loop.elapsed - s.loop.elapsed : Nat) : Quantity)) ∧
    (0 ≤ s.battery.stored → 0 ≤ s.loop.rate → 0 ≤ t.battery.stored)

/-- Spec 49 R230: every cycle of `elapsed` is one that a step, a backup or a restore returned and a period accounts for, or one of an
idle tick. -/
def Obligations.ElapsedAccounted : Prop :=
  ∀ s t : State, s.exitFlag = false → step s = .next t →
    t.loop.elapsed + s.loop.cycles =
      s.loop.elapsed + t.loop.cycles + (if t.loop.power = .inactive then s.params.idleTickCycles else 0)

/-- Spec 49 R228, one step: under a scheme that never backs up the no-progress count follows the number of periods, which is at most five
(`State.Unbacked`, kept by every step and true at the start of a run), and a tick that ends a period is a next state with the
count raised before the fifth and NoForwardProgress at the fifth. Where every period that ends has a backup, the count stays 0 and
NoForwardProgress is not raised; a scheme that always backs up is such a scheme (`State.Backed`, kept by every step). -/
def Obligations.ForwardProgressCounts : Prop :=
  (∀ s : State, s.scheme.policy.NeverBacksUp → (initLoop s).Unbacked) ∧
  (∀ s : State, s.scheme.policy.AlwaysBacksUp → (initLoop s).Backed) ∧
  (∀ s t : State, step s = .next t → (s.Unbacked → t.Unbacked) ∧ (s.Backed → t.Backed) ∧
    (s.loop.noProgress = 0 → (s.endsPeriod → s.loop.cur.backups ≠ 0) → t.loop.noProgress = 0)) ∧
  (∀ s : State, s.Unbacked → s.loop.periods.length ≤ 5 ∧
    (s.endsPeriod → s.loop.periods.length < 5 → ∃ t, step s = .next t ∧ t.loop.noProgress = s.loop.periods.length) ∧
    (s.endsPeriod → s.loop.periods.length = 5 → step s = .fault (.noForwardProgress 5 s.loop.elapsed)) ∧
    (∀ p e, step s = .fault (.noForwardProgress p e) → p = 5)) ∧
  (∀ s : State, (s.endsPeriod → s.loop.cur.backups ≠ 0) → ∀ p e, step s ≠ .fault (.noForwardProgress p e)) ∧
  (∀ s : State, s.Backed → s.endsPeriod → s.loop.cur.backups ≠ 0)

/-- Spec 49 R228: over runs of any length from any start. A scheme that never backs up: the run is stopped on the edge that ends the
fifth period, with five periods, and gets no further. A scheme that backs up at least once in every period (in every reached state
that is about to deactivate, the current period has a backup): the count is 0 and NoForwardProgress is never raised; a scheme
that always backs up is such a scheme. -/
def Obligations.ForwardProgressLiveness : Prop :=
  ∀ (s : State) (n : Nat), s.exitFlag = false →
    (s.scheme.policy.NeverBacksUp →
      (∀ p e, runTicks n (initLoop s) = .fatal (.noForwardProgress p e) → p = 5) ∧
      (∀ t, runTicks n (initLoop s) = .boundReached t →
        t.loop.periods.length ≤ 5 ∧
        (t.loop.power = .active → t.loop.noProgress + 1 = t.loop.periods.length) ∧
        (t.loop.power = .inactive → t.loop.first = false → t.loop.noProgress = t.loop.periods.length) ∧
        (t.endsPeriod → t.loop.periods.length = 5 → step t = .fault (.noForwardProgress 5 t.loop.elapsed)))) ∧
    ((∀ k t, k ≤ n → runTicks k (initLoop s) = .boundReached t → t.endsPeriod → t.loop.cur.backups ≠ 0) →
      (∀ p e, runTicks n (initLoop s) ≠ .fatal (.noForwardProgress p e)) ∧
      (∀ t, runTicks n (initLoop s) = .boundReached t → t.loop.noProgress = 0)) ∧
    (s.scheme.policy.AlwaysBacksUp →
      ∀ t, runTicks n (initLoop s) = .boundReached t → t.loop.power = .active → t.loop.cur.backups ≠ 0)

/-! ### The invariant -/

/-- Every step keeps the invariant of Sys2Proof/Safety.lean, from every state that has it. That energies stay >= 0 rests on the clamps of
notes/assumptions/3.md. -/
def Obligations.StepKeepsInvariant : Prop := ∀ s t : State, s.Inv → step s = .next t → t.Inv

/-- The invariant holds after reset; what the parameters and the collaborators hold there is the model's choice
(notes/assumptions/2.md, 3.md, 5.md). -/
def Obligations.ResetHasInvariant : Prop := State.reset.Inv

end
end

