-- ==== Sys2Proof/Laws/State.lean ====
section
/-! SUPPORT. What each update of a state leaves in each field: one lemma per field per update. -/

namespace Sys2Proof.Machine

/-! ### `setFlags` -/

@[simp] theorem State.setFlags_cpu_regs (s : State) (f : Flags) : (s.setFlags f).cpu.regs = s.cpu.regs := rfl
@[simp] theorem State.setFlags_cpu_pcReg (s : State) (f : Flags) : (s.setFlags f).cpu.pcReg = s.cpu.pcReg := rfl
@[simp] theorem State.setFlags_cpu_flags (s : State) (f : Flags) : (s.setFlags f).cpu.flags = f := rfl
@[simp] theorem State.setFlags_cpu_primask (s : State) (f : Flags) : (s.setFlags f).cpu.primask = s.cpu.primask := rfl
@[simp] theorem State.setFlags_cpu_mode (s : State) (f : Flags) : (s.setFlags f).cpu.mode = s.cpu.mode := rfl
@[simp] theorem State.setFlags_cpu_pending (s : State) (f : Flags) : (s.setFlags f).cpu.pending = s.cpu.pending := rfl
@[simp] theorem State.setFlags_mem (s : State) (f : Flags) : (s.setFlags f).mem = s.mem := rfl
@[simp] theorem State.setFlags_branchTaken (s : State) (f : Flags) : (s.setFlags f).branchTaken = s.branchTaken := rfl
@[simp] theorem State.setFlags_exitFlag (s : State) (f : Flags) : (s.setFlags f).exitFlag = s.exitFlag := rfl
@[simp] theorem State.setFlags_stepCycles (s : State) (f : Flags) : (s.setFlags f).stepCycles = s.stepCycles := rfl
@[simp] theorem State.setFlags_scheme (s : State) (f : Flags) : (s.setFlags f).scheme = s.scheme := rfl
@[simp] theorem State.setFlags_battery (s : State) (f : Flags) : (s.setFlags f).battery = s.battery := rfl
@[simp] theorem State.setFlags_env (s : State) (f : Flags) : (s.setFlags f).env = s.env := rfl
@[simp] theorem State.setFlags_loop (s : State) (f : Flags) : (s.setFlags f).loop = s.loop := rfl
@[simp] theorem State.setFlags_params (s : State) (f : Flags) : (s.setFlags f).params = s.params := rfl
@[simp] theorem State.setFlags_x (s : State) (f : Flags) (r : Reg) :
    (s.setFlags f).x r = s.x r := rfl

/-! ### `setPcReg` -/

@[simp] theorem State.setPcReg_cpu_regs (s : State) (v : Word) : (s.setPcReg v).cpu.regs = s.cpu.regs := rfl
@[simp] theorem State.setPcReg_cpu_pcReg (s : State) (v : Word) : (s.setPcReg v).cpu.pcReg = v := rfl
@[simp] theorem State.setPcReg_cpu_flags (s : State) (v : Word) : (s.setPcReg v).cpu.flags = s.cpu.flags := rfl
@[simp] theorem State.setPcReg_cpu_primask (s : State) (v : Word) : (s.setPcReg v).cpu.primask = s.cpu.primask := rfl
@[simp] theorem State.setPcReg_cpu_mode (s : State) (v : Word) : (s.setPcReg v).cpu.mode = s.cpu.mode := rfl
@[simp] theorem State.setPcReg_cpu_pending (s : State) (v : Word) : (s.setPcReg v).cpu.pending = s.cpu.pending := rfl
@[simp] theorem State.setPcReg_mem (s : State) (v : Word) : (s.setPcReg v).mem = s.mem := rfl
@[simp] theorem State.setPcReg_branchTaken (s : State) (v : Word) : (s.setPcReg v).branchTaken = s.branchTaken := rfl
@[simp] theorem State.setPcReg_exitFlag (s : State) (v : Word) : (s.setPcReg v).exitFlag = s.exitFlag := rfl
@[simp] theorem State.setPcReg_stepCycles (s : State) (v : Word) : (s.setPcReg v).stepCycles = s.stepCycles := rfl
@[simp] theorem State.setPcReg_scheme (s : State) (v : Word) : (s.setPcReg v).scheme = s.scheme := rfl
@[simp] theorem State.setPcReg_battery (s : State) (v : Word) : (s.setPcReg v).battery = s.battery := rfl
@[simp] theorem State.setPcReg_env (s : State) (v : Word) : (s.setPcReg v).env = s.env := rfl
@[simp] theorem State.setPcReg_loop (s : State) (v : Word) : (s.setPcReg v).loop = s.loop := rfl
@[simp] theorem State.setPcReg_params (s : State) (v : Word) : (s.setPcReg v).params = s.params := rfl
@[simp] theorem State.setPcReg_x (s : State) (v : Word) (r : Reg) :
    (s.setPcReg v).x r = if r.val < 15 then s.x r else v &&& 0xFFFFFFFE#32 := by
  simp only [State.x, Cpu.read, State.setPcReg]; split <;> simp_all

/-! ### `setPrimask` -/

@[simp] theorem State.setPrimask_cpu_regs (s : State) (b : Bool) : (s.setPrimask b).cpu.regs = s.cpu.regs := rfl
@[simp] theorem State.setPrimask_cpu_pcReg (s : State) (b : Bool) : (s.setPrimask b).cpu.pcReg = s.cpu.pcReg := rfl
@[simp] theorem State.setPrimask_cpu_flags (s : State) (b : Bool) : (s.setPrimask b).cpu.flags = s.cpu.flags := rfl
@[simp] theorem State.setPrimask_cpu_primask (s : State) (b : Bool) : (s.setPrimask b).cpu.primask = b := rfl
@[simp] theorem State.setPrimask_cpu_mode (s : State) (b : Bool) : (s.setPrimask b).cpu.mode = s.cpu.mode := rfl
@[simp] theorem State.setPrimask_cpu_pending (s : State) (b : Bool) : (s.setPrimask b).cpu.pending = s.cpu.pending := rfl
@[simp] theorem State.setPrimask_mem (s : State) (b : Bool) : (s.setPrimask b).mem = s.mem := rfl
@[simp] theorem State.setPrimask_branchTaken (s : State) (b : Bool) : (s.setPrimask b).branchTaken = s.branchTaken := rfl
@[simp] theorem State.setPrimask_exitFlag (s : State) (b : Bool) : (s.setPrimask b).exitFlag = s.exitFlag := rfl
@[simp] theorem State.setPrimask_stepCycles (s : State) (b : Bool) : (s.setPrimask b).stepCycles = s.stepCycles := rfl
@[simp] theorem State.setPrimask_scheme (s : State) (b : Bool) : (s.setPrimask b).scheme = s.scheme := rfl
@[simp] theorem State.setPrimask_battery (s : State) (b : Bool) : (s.setPrimask b).battery = s.battery := rfl
@[simp] theorem State.setPrimask_env (s : State) (b : Bool) : (s.setPrimask b).env = s.env := rfl
@[simp] theorem State.setPrimask_loop (s : State) (b : Bool) : (s.setPrimask b).loop = s.loop := rfl
@[simp] theorem State.setPrimask_params (s : State) (b : Bool) : (s.setPrimask b).params = s.params := rfl
@[simp] theorem State.setPrimask_x (s : State) (b : Bool) (r : Reg) :
    (s.setPrimask b).x r = s.x r := rfl

/-! ### `setMode` -/

@[simp] theorem State.setMode_cpu_regs (s : State) (m : Mode) : (s.setMode m).cpu.regs = s.cpu.regs := rfl
@[simp] theorem State.setMode_cpu_pcReg (s : State) (m : Mode) : (s.setMode m).cpu.pcReg = s.cpu.pcReg := rfl
@[simp] theorem State.setMode_cpu_flags (s : State) (m : Mode) : (s.setMode m).cpu.flags = s.cpu.flags := rfl
@[simp] theorem State.setMode_cpu_primask (s : State) (m : Mode) : (s.setMode m).cpu.primask = s.cpu.primask := rfl
@[simp] theorem State.setMode_cpu_mode (s : State) (m : Mode) : (s.setMode m).cpu.mode = m := rfl
@[simp] theorem State.setMode_cpu_pending (s : State) (m : Mode) : (s.setMode m).cpu.pending = s.cpu.pending := rfl
@[simp] theorem State.setMode_mem (s : State) (m : Mode) : (s.setMode m).mem = s.mem := rfl
@[simp] theorem State.setMode_branchTaken (s : State) (m : Mode) : (s.setMode m).branchTaken = s.branchTaken := rfl
@[simp] theorem State.setMode_exitFlag (s : State) (m : Mode) : (s.setMode m).exitFlag = s.exitFlag := rfl
@[simp] theorem State.setMode_stepCycles (s : State) (m : Mode) : (s.setMode m).stepCycles = s.stepCycles := rfl
@[simp] theorem State.setMode_scheme (s : State) (m : Mode) : (s.setMode m).scheme = s.scheme := rfl
@[simp] theorem State.setMode_battery (s : State) (m : Mode) : (s.setMode m).battery = s.battery := rfl
@[simp] theorem State.setMode_env (s : State) (m : Mode) : (s.setMode m).env = s.env := rfl
@[simp] theorem State.setMode_loop (s : State) (m : Mode) : (s.setMode m).loop = s.loop := rfl
@[simp] theorem State.setMode_params (s : State) (m : Mode) : (s.setMode m).params = s.params := rfl
@[simp] theorem State.setMode_x (s : State) (m : Mode) (r : Reg) :
    (s.setMode m).x r = s.x r := rfl

/-! ### `setMem` -/

@[simp] theorem State.setMem_cpu (s : State) (m : Memory) : (s.setMem m).cpu = s.cpu := rfl
@[simp] theorem State.setMem_mem (s : State) (m : Memory) : (s.setMem m).mem = m := rfl
@[simp] theorem State.setMem_branchTaken (s : State) (m : Memory) : (s.setMem m).branchTaken = s.branchTaken := rfl
@[simp] theorem State.setMem_exitFlag (s : State) (m : Memory) : (s.setMem m).exitFlag = s.exitFlag := rfl
@[simp] theorem State.setMem_stepCycles (s : State) (m : Memory) : (s.setMem m).stepCycles = s.stepCycles := rfl
@[simp] theorem State.setMem_scheme (s : State) (m : Memory) : (s.setMem m).scheme = s.scheme := rfl
@[simp] theorem State.setMem_battery (s : State) (m : Memory) : (s.setMem m).battery = s.battery := rfl
@[simp] theorem State.setMem_env (s : State) (m : Memory) : (s.setMem m).env = s.env := rfl
@[simp] theorem State.setMem_loop (s : State) (m : Memory) : (s.setMem m).loop = s.loop := rfl
@[simp] theorem State.setMem_params (s : State) (m : Memory) : (s.setMem m).params = s.params := rfl
@[simp] theorem State.setMem_x (s : State) (m : Memory) (r : Reg) :
    (s.setMem m).x r = s.x r := rfl

/-! ### `setBranchTaken` -/

@[simp] theorem State.setBranchTaken_cpu (s : State) (b : Bool) : (s.setBranchTaken b).cpu = s.cpu := rfl
@[simp] theorem State.setBranchTaken_mem (s : State) (b : Bool) : (s.setBranchTaken b).mem = s.mem := rfl
@[simp] theorem State.setBranchTaken_branchTaken (s : State) (b : Bool) : (s.setBranchTaken b).branchTaken = b := rfl
@[simp] theorem State.setBranchTaken_exitFlag (s : State) (b : Bool) : (s.setBranchTaken b).exitFlag = s.exitFlag := rfl
@[simp] theorem State.setBranchTaken_stepCycles (s : State) (b : Bool) : (s.setBranchTaken b).stepCycles = s.stepCycles := rfl
@[simp] theorem State.setBranchTaken_scheme (s : State) (b : Bool) : (s.setBranchTaken b).scheme = s.scheme := rfl
@[simp] theorem State.setBranchTaken_battery (s : State) (b : Bool) : (s.setBranchTaken b).battery = s.battery := rfl
@[simp] theorem State.setBranchTaken_env (s : State) (b : Bool) : (s.setBranchTaken b).env = s.env := rfl
@[simp] theorem State.setBranchTaken_loop (s : State) (b : Bool) : (s.setBranchTaken b).loop = s.loop := rfl
@[simp] theorem State.setBranchTaken_params (s : State) (b : Bool) : (s.setBranchTaken b).params = s.params := rfl
@[simp] theorem State.setBranchTaken_x (s : State) (b : Bool) (r : Reg) :
    (s.setBranchTaken b).x r = s.x r := rfl

/-! ### `setExitFlag` -/

@[simp] theorem State.setExitFlag_cpu (s : State) (b : Bool) : (s.setExitFlag b).cpu = s.cpu := rfl
@[simp] theorem State.setExitFlag_mem (s : State) (b : Bool) : (s.setExitFlag b).mem = s.mem := rfl
@[simp] theorem State.setExitFlag_branchTaken (s : State) (b : Bool) : (s.setExitFlag b).branchTaken = s.branchTaken := rfl
@[simp] theorem State.setExitFlag_exitFlag (s : State) (b : Bool) : (s.setExitFlag b).exitFlag = b := rfl
@[simp] theorem State.setExitFlag_stepCycles (s : State) (b : Bool) : (s.setExitFlag b).stepCycles = s.stepCycles := rfl
@[simp] theorem State.setExitFlag_scheme (s : State) (b : Bool) : (s.setExitFlag b).scheme = s.scheme := rfl
@[simp] theorem State.setExitFlag_battery (s : State) (b : Bool) : (s.setExitFlag b).battery = s.battery := rfl
@[simp] theorem State.setExitFlag_env (s : State) (b : Bool) : (s.setExitFlag b).env = s.env := rfl
@[simp] theorem State.setExitFlag_loop (s : State) (b : Bool) : (s.setExitFlag b).loop = s.loop := rfl
@[simp] theorem State.setExitFlag_params (s : State) (b : Bool) : (s.setExitFlag b).params = s.params := rfl
@[simp] theorem State.setExitFlag_x (s : State) (b : Bool) (r : Reg) :
    (s.setExitFlag b).x r = s.x r := rfl

/-! ### `charge` -/

@[simp] theorem State.charge_cpu (s : State) (n : Nat) : (s.charge n).cpu = s.cpu := rfl
@[simp] theorem State.charge_mem (s : State) (n : Nat) : (s.charge n).mem = s.mem := rfl
@[simp] theorem State.charge_branchTaken (s : State) (n : Nat) : (s.charge n).branchTaken = s.branchTaken := rfl
@[simp] theorem State.charge_exitFlag (s : State) (n : Nat) : (s.charge n).exitFlag = s.exitFlag := rfl
@[simp] theorem State.charge_stepCycles (s : State) (n : Nat) : (s.charge n).stepCycles = n := rfl
@[simp] theorem State.charge_scheme (s : State) (n : Nat) : (s.charge n).scheme = s.scheme := rfl
@[simp] theorem State.charge_battery (s : State) (n : Nat) : (s.charge n).battery = s.battery := rfl
@[simp] theorem State.charge_env (s : State) (n : Nat) : (s.charge n).env = s.env := rfl
@[simp] theorem State.charge_loop (s : State) (n : Nat) : (s.charge n).loop = s.loop := rfl
@[simp] theorem State.charge_params (s : State) (n : Nat) : (s.charge n).params = s.params := rfl
@[simp] theorem State.charge_x (s : State) (n : Nat) (r : Reg) :
    (s.charge n).x r = s.x r := rfl

/-! ### `cost` -/

@[simp] theorem State.cost_cpu (s : State) (c : CycleClass) : (s.cost c).cpu = s.cpu := rfl
@[simp] theorem State.cost_mem (s : State) (c : CycleClass) : (s.cost c).mem = s.mem := rfl
@[simp] theorem State.cost_branchTaken (s : State) (c : CycleClass) : (s.cost c).branchTaken = s.branchTaken := rfl
@[simp] theorem State.cost_exitFlag (s : State) (c : CycleClass) : (s.cost c).exitFlag = s.exitFlag := rfl
@[simp] theorem State.cost_stepCycles (s : State) (c : CycleClass) : (s.cost c).stepCycles = c.cycles := rfl
@[simp] theorem State.cost_scheme (s : State) (c : CycleClass) : (s.cost c).scheme = s.scheme := rfl
@[simp] theorem State.cost_battery (s : State) (c : CycleClass) : (s.cost c).battery = s.battery := rfl
@[simp] theorem State.cost_env (s : State) (c : CycleClass) : (s.cost c).env = s.env := rfl
@[simp] theorem State.cost_loop (s : State) (c : CycleClass) : (s.cost c).loop = s.loop := rfl
@[simp] theorem State.cost_params (s : State) (c : CycleClass) : (s.cost c).params = s.params := rfl
@[simp] theorem State.cost_x (s : State) (c : CycleClass) (r : Reg) :
    (s.cost c).x r = s.x r := rfl

/-! ### `draw` -/

@[simp] theorem State.draw_cpu (s : State) (q : Quantity) : (s.draw q).cpu = s.cpu := rfl
@[simp] theorem State.draw_mem (s : State) (q : Quantity) : (s.draw q).mem = s.mem := rfl
@[simp] theorem State.draw_branchTaken (s : State) (q : Quantity) : (s.draw q).branchTaken = s.branchTaken := rfl
@[simp] theorem State.draw_exitFlag (s : State) (q : Quantity) : (s.draw q).exitFlag = s.exitFlag := rfl
@[simp] theorem State.draw_stepCycles (s : State) (q : Quantity) : (s.draw q).stepCycles = s.stepCycles := rfl
@[simp] theorem State.draw_scheme (s : State) (q : Quantity) : (s.draw q).scheme = s.scheme := rfl
@[simp] theorem State.draw_battery (s : State) (q : Quantity) : (s.draw q).battery = s.battery.draw s.num q := rfl
@[simp] theorem State.draw_env (s : State) (q : Quantity) : (s.draw q).env = s.env := rfl
@[simp] theorem State.draw_loop (s : State) (q : Quantity) : (s.draw q).loop = s.loop := rfl
@[simp] theorem State.draw_params (s : State) (q : Quantity) : (s.draw q).params = s.params := rfl

/-! ### `remember` -/

@[simp] theorem State.remember_cpu (s : State) (r : Reply) : (s.remember r).cpu = s.cpu := rfl
@[simp] theorem State.remember_mem (s : State) (r : Reply) : (s.remember r).mem = s.mem := rfl
@[simp] theorem State.remember_branchTaken (s : State) (r : Reply) : (s.remember r).branchTaken = s.branchTaken := rfl
@[simp] theorem State.remember_exitFlag (s : State) (r : Reply) : (s.remember r).exitFlag = s.exitFlag := rfl
@[simp] theorem State.remember_stepCycles (s : State) (r : Reply) : (s.remember r).stepCycles = s.stepCycles := rfl
@[simp] theorem State.remember_battery (s : State) (r : Reply) : (s.remember r).battery = s.battery := rfl
@[simp] theorem State.remember_env (s : State) (r : Reply) : (s.remember r).env = s.env := rfl
@[simp] theorem State.remember_loop (s : State) (r : Reply) : (s.remember r).loop = s.loop := rfl
@[simp] theorem State.remember_params (s : State) (r : Reply) : (s.remember r).params = s.params := rfl
@[simp] theorem State.remember_scheme_slot (s : State) (r : Reply) : (s.remember r).scheme.slot = s.scheme.slot := rfl
@[simp] theorem State.remember_scheme_policy (s : State) (r : Reply) : (s.remember r).scheme.policy = s.scheme.policy := rfl
@[simp] theorem State.remember_scheme_memo (s : State) (r : Reply) : (s.remember r).scheme.memo = r.memo := rfl
@[simp] theorem State.remember_scheme_clockFrequency (s : State) (r : Reply) : (s.remember r).scheme.clockFrequency = s.scheme.clockFrequency := rfl

/-! ### `useBattery` -/

@[simp] theorem State.useBattery_cpu (s : State) : s.useBattery.cpu = s.cpu := rfl
@[simp] theorem State.useBattery_mem (s : State) : s.useBattery.mem = s.mem := rfl
@[simp] theorem State.useBattery_branchTaken (s : State) : s.useBattery.branchTaken = s.branchTaken := rfl
@[simp] theorem State.useBattery_exitFlag (s : State) : s.useBattery.exitFlag = s.exitFlag := rfl
@[simp] theorem State.useBattery_stepCycles (s : State) : s.useBattery.stepCycles = s.stepCycles := rfl
@[simp] theorem State.useBattery_battery (s : State) : s.useBattery.battery = s.battery := rfl
@[simp] theorem State.useBattery_env (s : State) : s.useBattery.env = s.env := rfl
@[simp] theorem State.useBattery_loop (s : State) : s.useBattery.loop = s.loop := rfl
@[simp] theorem State.useBattery_params (s : State) : s.useBattery.params = s.params := rfl
@[simp] theorem State.useBattery_num (s : State) : s.useBattery.num = s.num := rfl
@[simp] theorem State.useBattery_scheme_slot (s : State) : s.useBattery.scheme.slot = s.scheme.slot := rfl
@[simp] theorem State.useBattery_scheme_policy (s : State) : s.useBattery.scheme.policy = s.scheme.policy := rfl
@[simp] theorem State.useBattery_scheme_clockFrequency (s : State) : s.useBattery.scheme.clockFrequency = s.scheme.clockFrequency := rfl
@[simp] theorem State.useBattery_scheme_memo (s : State) : s.useBattery.scheme.memo = s.memoAfterUse := rfl

/-! ### `askBattery` -/

@[simp] theorem State.askBattery_cpu (s : State) : s.askBattery.cpu = s.cpu := rfl
@[simp] theorem State.askBattery_mem (s : State) : s.askBattery.mem = s.mem := rfl
@[simp] theorem State.askBattery_branchTaken (s : State) : s.askBattery.branchTaken = s.branchTaken := rfl
@[simp] theorem State.askBattery_exitFlag (s : State) : s.askBattery.exitFlag = s.exitFlag := rfl
@[simp] theorem State.askBattery_stepCycles (s : State) : s.askBattery.stepCycles = s.stepCycles := rfl
@[simp] theorem State.askBattery_battery (s : State) : s.askBattery.battery = s.battery := rfl
@[simp] theorem State.askBattery_env (s : State) : s.askBattery.env = s.env := rfl
@[simp] theorem State.askBattery_loop (s : State) : s.askBattery.loop = s.loop := rfl
@[simp] theorem State.askBattery_params (s : State) : s.askBattery.params = s.params := rfl
@[simp] theorem State.askBattery_num (s : State) : s.askBattery.num = s.num := rfl
@[simp] theorem State.askBattery_scheme_slot (s : State) : s.askBattery.scheme.slot = s.scheme.slot := rfl
@[simp] theorem State.askBattery_scheme_policy (s : State) : s.askBattery.scheme.policy = s.scheme.policy := rfl
@[simp] theorem State.askBattery_scheme_clockFrequency (s : State) : s.askBattery.scheme.clockFrequency = s.scheme.clockFrequency := rfl
@[simp] theorem State.askBattery_scheme_memo (s : State) : s.askBattery.scheme.memo = (s.reply .battery).memo := rfl

/-! ### `setX` -/

@[simp] theorem Cpu.write_pcReg (c : Cpu) (i : Reg) (v : Word) : (c.write i v).pcReg = c.pcReg := by
  unfold Cpu.write; split <;> rfl
@[simp] theorem Cpu.write_flags (c : Cpu) (i : Reg) (v : Word) : (c.write i v).flags = c.flags := by
  unfold Cpu.write; split <;> rfl
@[simp] theorem Cpu.write_primask (c : Cpu) (i : Reg) (v : Word) : (c.write i v).primask = c.primask := by
  unfold Cpu.write; split <;> rfl
@[simp] theorem Cpu.write_mode (c : Cpu) (i : Reg) (v : Word) : (c.write i v).mode = c.mode := by
  unfold Cpu.write; split <;> rfl
@[simp] theorem Cpu.write_pending (c : Cpu) (i : Reg) (v : Word) : (c.write i v).pending = c.pending := by
  unfold Cpu.write; split <;> rfl
@[simp] theorem State.setX_cpu_pcReg (s : State) (i : Reg) (v : Word) : (s.setX i v).cpu.pcReg = s.cpu.pcReg :=
  Cpu.write_pcReg ..
@[simp] theorem State.setX_cpu_flags (s : State) (i : Reg) (v : Word) : (s.setX i v).cpu.flags = s.cpu.flags :=
  Cpu.write_flags ..
@[simp] theorem State.setX_cpu_primask (s : State) (i : Reg) (v : Word) : (s.setX i v).cpu.primask = s.cpu.primask :=
  Cpu.write_primask ..
@[simp] theorem State.setX_cpu_mode (s : State) (i : Reg) (v : Word) : (s.setX i v).cpu.mode = s.cpu.mode :=
  Cpu.write_mode ..
@[simp] theorem State.setX_cpu_pending (s : State) (i : Reg) (v : Word) : (s.setX i v).cpu.pending = s.cpu.pending :=
  Cpu.write_pending ..
@[simp] theorem State.setX_mem (s : State) (i : Reg) (v : Word) : (s.setX i v).mem = s.mem := rfl
@[simp] theorem State.setX_branchTaken (s : State) (i : Reg) (v : Word) : (s.setX i v).branchTaken = s.branchTaken := rfl
@[simp] theorem State.setX_exitFlag (s : State) (i : Reg) (v : Word) : (s.setX i v).exitFlag = s.exitFlag := rfl
@[simp] theorem State.setX_stepCycles (s : State) (i : Reg) (v : Word) : (s.setX i v).stepCycles = s.stepCycles := rfl
@[simp] theorem State.setX_scheme (s : State) (i : Reg) (v : Word) : (s.setX i v).scheme = s.scheme := rfl
@[simp] theorem State.setX_battery (s : State) (i : Reg) (v : Word) : (s.setX i v).battery = s.battery := rfl
@[simp] theorem State.setX_env (s : State) (i : Reg) (v : Word) : (s.setX i v).env = s.env := rfl
@[simp] theorem State.setX_loop (s : State) (i : Reg) (v : Word) : (s.setX i v).loop = s.loop := rfl
@[simp] theorem State.setX_params (s : State) (i : Reg) (v : Word) : (s.setX i v).params = s.params := rfl

/-! ### Loop updates -/

@[simp] theorem State.setCur_loop_power (s : State) (p : Period) : (s.setCur p).loop.power = s.loop.power := rfl
@[simp] theorem State.setCur_loop_first (s : State) (p : Period) : (s.setCur p).loop.first = s.loop.first := rfl
@[simp] theorem State.setCur_loop_elapsed (s : State) (p : Period) : (s.setCur p).loop.elapsed = s.loop.elapsed := rfl
@[simp] theorem State.setCur_loop_time (s : State) (p : Period) : (s.setCur p).loop.time = s.loop.time := rfl
@[simp] theorem State.setCur_loop_nextSample (s : State) (p : Period) : (s.setCur p).loop.nextSample = s.loop.nextSample := rfl
@[simp] theorem State.setCur_loop_voltage (s : State) (p : Period) : (s.setCur p).loop.voltage = s.loop.voltage := rfl
@[simp] theorem State.setCur_loop_rate (s : State) (p : Period) : (s.setCur p).loop.rate = s.loop.rate := rfl
@[simp] theorem State.setCur_loop_noProgress (s : State) (p : Period) : (s.setCur p).loop.noProgress = s.loop.noProgress := rfl
@[simp] theorem State.setCur_loop_finished (s : State) (p : Period) : (s.setCur p).loop.finished = s.loop.finished := rfl
@[simp] theorem State.setCur_loop_cur (s : State) (p : Period) : (s.setCur p).loop.cur = p := rfl
@[simp] theorem State.setCur_loop_totals (s : State) (p : Period) : (s.setCur p).loop.totals = s.loop.totals := rfl
@[simp] theorem State.setCur_cpu (s : State) (p : Period) : (s.setCur p).cpu = s.cpu := rfl
@[simp] theorem State.setCur_mem (s : State) (p : Period) : (s.setCur p).mem = s.mem := rfl
@[simp] theorem State.setCur_branchTaken (s : State) (p : Period) : (s.setCur p).branchTaken = s.branchTaken := rfl
@[simp] theorem State.setCur_exitFlag (s : State) (p : Period) : (s.setCur p).exitFlag = s.exitFlag := rfl
@[simp] theorem State.setCur_stepCycles (s : State) (p : Period) : (s.setCur p).stepCycles = s.stepCycles := rfl
@[simp] theorem State.setCur_scheme (s : State) (p : Period) : (s.setCur p).scheme = s.scheme := rfl
@[simp] theorem State.setCur_battery (s : State) (p : Period) : (s.setCur p).battery = s.battery := rfl
@[simp] theorem State.setCur_env (s : State) (p : Period) : (s.setCur p).env = s.env := rfl
@[simp] theorem State.setCur_params (s : State) (p : Period) : (s.setCur p).params = s.params := rfl

@[simp] theorem State.setPower_loop_power (s : State) (p : Power) : (s.setPower p).loop.power = p := rfl
@[simp] theorem State.setPower_loop_first (s : State) (p : Power) : (s.setPower p).loop.first = s.loop.first := rfl
@[simp] theorem State.setPower_loop_elapsed (s : State) (p : Power) : (s.setPower p).loop.elapsed = s.loop.elapsed := rfl
@[simp] theorem State.setPower_loop_time (s : State) (p : Power) : (s.setPower p).loop.time = s.loop.time := rfl
@[simp] theorem State.setPower_loop_nextSample (s : State) (p : Power) : (s.setPower p).loop.nextSample = s.loop.nextSample := rfl
@[simp] theorem State.setPower_loop_voltage (s : State) (p : Power) : (s.setPower p).loop.voltage = s.loop.voltage := rfl
@[simp] theorem State.setPower_loop_rate (s : State) (p : Power) : (s.setPower p).loop.rate = s.loop.rate := rfl
@[simp] theorem State.setPower_loop_noProgress (s : State) (p : Power) : (s.setPower p).loop.noProgress = s.loop.noProgress := rfl
@[simp] theorem State.setPower_loop_finished (s : State) (p : Power) : (s.setPower p).loop.finished = s.loop.finished := rfl
@[simp] theorem State.setPower_loop_cur (s : State) (p : Power) : (s.setPower p).loop.cur = s.loop.cur := rfl
@[simp] theorem State.setPower_loop_totals (s : State) (p : Power) : (s.setPower p).loop.totals = s.loop.totals := rfl
@[simp] theorem State.setPower_cpu (s : State) (p : Power) : (s.setPower p).cpu = s.cpu := rfl
@[simp] theorem State.setPower_mem (s : State) (p : Power) : (s.setPower p).mem = s.mem := rfl
@[simp] theorem State.setPower_branchTaken (s : State) (p : Power) : (s.setPower p).branchTaken = s.branchTaken := rfl
@[simp] theorem State.setPower_exitFlag (s : State) (p : Power) : (s.setPower p).exitFlag = s.exitFlag := rfl
@[simp] theorem State.setPower_stepCycles (s : State) (p : Power) : (s.setPower p).stepCycles = s.stepCycles := rfl
@[simp] theorem State.setPower_scheme (s : State) (p : Power) : (s.setPower p).scheme = s.scheme := rfl
@[simp] theorem State.setPower_battery (s : State) (p : Power) : (s.setPower p).battery = s.battery := rfl
@[simp] theorem State.setPower_env (s : State) (p : Power) : (s.setPower p).env = s.env := rfl
@[simp] theorem State.setPower_params (s : State) (p : Power) : (s.setPower p).params = s.params := rfl

@[simp] theorem State.setNoProgress_cpu (s : State) (n : Nat) : (s.setNoProgress n).cpu = s.cpu := rfl
@[simp] theorem State.setNoProgress_mem (s : State) (n : Nat) : (s.setNoProgress n).mem = s.mem := rfl
@[simp] theorem State.setNoProgress_branchTaken (s : State) (n : Nat) : (s.setNoProgress n).branchTaken = s.branchTaken := rfl
@[simp] theorem State.setNoProgress_exitFlag (s : State) (n : Nat) : (s.setNoProgress n).exitFlag = s.exitFlag := rfl
@[simp] theorem State.setNoProgress_stepCycles (s : State) (n : Nat) : (s.setNoProgress n).stepCycles = s.stepCycles := rfl
@[simp] theorem State.setNoProgress_scheme (s : State) (n : Nat) : (s.setNoProgress n).scheme = s.scheme := rfl
@[simp] theorem State.setNoProgress_battery (s : State) (n : Nat) : (s.setNoProgress n).battery = s.battery := rfl
@[simp] theorem State.setNoProgress_env (s : State) (n : Nat) : (s.setNoProgress n).env = s.env := rfl
@[simp] theorem State.setNoProgress_params (s : State) (n : Nat) : (s.setNoProgress n).params = s.params := rfl
@[simp] theorem State.setNoProgress_loop_power (s : State) (n : Nat) : (s.setNoProgress n).loop.power = s.loop.power := rfl
@[simp] theorem State.setNoProgress_loop_first (s : State) (n : Nat) : (s.setNoProgress n).loop.first = s.loop.first := rfl
@[simp] theorem State.setNoProgress_loop_elapsed (s : State) (n : Nat) : (s.setNoProgress n).loop.elapsed = s.loop.elapsed := rfl
@[simp] theorem State.setNoProgress_loop_time (s : State) (n : Nat) : (s.setNoProgress n).loop.time = s.loop.time := rfl
@[simp] theorem State.setNoProgress_loop_nextSample (s : State) (n : Nat) : (s.setNoProgress n).loop.nextSample = s.loop.nextSample := rfl
@[simp] theorem State.setNoProgress_loop_voltage (s : State) (n : Nat) : (s.setNoProgress n).loop.voltage = s.loop.voltage := rfl
@[simp] theorem State.setNoProgress_loop_rate (s : State) (n : Nat) : (s.setNoProgress n).loop.rate = s.loop.rate := rfl
@[simp] theorem State.setNoProgress_loop_noProgress (s : State) (n : Nat) : (s.setNoProgress n).loop.noProgress = n := rfl
@[simp] theorem State.setNoProgress_loop_finished (s : State) (n : Nat) : (s.setNoProgress n).loop.finished = s.loop.finished := rfl
@[simp] theorem State.setNoProgress_loop_cur (s : State) (n : Nat) : (s.setNoProgress n).loop.cur = s.loop.cur := rfl
@[simp] theorem State.setNoProgress_loop_totals (s : State) (n : Nat) : (s.setNoProgress n).loop.totals = s.loop.totals := rfl

end Sys2Proof.Machine
end

