-- ==== Sys2Proof/Laws/Registers.lean ====
section
/-! SUPPORT. Reading a register after writing one (spec 00 R13, 10 R23, R28). -/

namespace Sys2Proof.Machine

theorem Cpu.read_write (c : Cpu) (i r : Reg) (v : Word) (hi : i.val < 15) :
    (c.write i v).read r = if r = i then v else c.read r := by
  by_cases hr : r.val < 15
  · simp only [Cpu.read, Cpu.write, hi, hr, dite_true, Vector.getElem_set, Fin.ext_iff, eq_comm]
  · have : r ≠ i := fun h => hr (h ▸ hi)
    simp [Cpu.read, Cpu.write, hi, hr, this]

@[simp] theorem State.x_setX_same (s : State) (i : Reg) (v : Word) (hi : i.val < 15) :
    (s.setX i v).x i = v := by
  simp [State.x, State.setX, Cpu.read_write _ _ _ _ hi]

@[simp] theorem State.x_setX_of_ne (s : State) (i r : Reg) (v : Word) (h : r ≠ i) :
    (s.setX i v).x r = s.x r := by
  by_cases hi : i.val < 15
  · simp [State.x, State.setX, Cpu.read_write _ _ _ _ hi, h]
  · simp [State.x, State.setX, Cpu.write, hi]

theorem State.x_setX (s : State) (i r : Reg) (v : Word) (hi : i.val < 15) :
    (s.setX i v).x r = if r = i then v else s.x r := by
  simp [State.x, State.setX, Cpu.read_write _ _ _ _ hi]

/-- Register 15 reads as the PC read value (spec 10 R28). -/
@[simp] theorem State.x_pc (s : State) : s.x 15 = s.pc := rfl

@[simp] theorem lo_lt (r : LowReg) : (lo r).val < 15 := by have := r.isLt; simp [lo]; omega

@[simp] theorem lo_inj (a b : LowReg) : lo a = lo b ↔ a = b := by simp [lo, Fin.ext_iff]

@[simp] theorem lo_ne_sp (r : LowReg) : lo r ≠ sp := by
  have := r.isLt; simp [lo, sp, Fin.ext_iff]; omega

@[simp] theorem lo_ne_lr (r : LowReg) : lo r ≠ lr := by
  have := r.isLt; simp [lo, lr, Fin.ext_iff]; omega

@[simp] theorem lo_ne_pc (r : LowReg) : lo r ≠ 15 := by
  have := r.isLt; simp [lo, Fin.ext_iff]; omega

@[simp] theorem sp_lt : sp.val < 15 := by decide

@[simp] theorem lr_lt : lr.val < 15 := by decide

end Sys2Proof.Machine
end

