-- ==== Sys2Proof/Laws/Memory.lean ====
section
/-! SUPPORT. Bytes of memory: a read after a write, and the canonical form, which every operation keeps. -/

namespace Sys2Proof.Machine

/-! ### One byte -/

theorem Memory.wf_cons (k : Nat) (v : Byte) (m : Memory) :
    Memory.wf ((k, v) :: m) ↔ (∀ c ∈ m, k < c.1) ∧ v ≠ Memory.unlisted ∧ Memory.wf m := by
  simp only [Memory.wf, List.pairwise_cons, List.mem_cons, forall_eq_or_imp]
  tauto

/-- Below its first address a memory reads as unlisted. -/
theorem Memory.read_eq_unlisted (m : Memory) (a : Nat) (h : ∀ c ∈ m, a < c.1) : m.read a = Memory.unlisted := by
  cases m with
  | nil => rfl
  | cons c m => simp [Memory.read, h c (by simp)]

/-- A read after a write: the byte written at its address, every other byte as before (spec 20 R52, R60). -/
theorem Memory.read_write (m : Memory) (hm : m.wf) (a x : Nat) (b : Byte) :
    (m.write a b).read x = if x = a then b else m.read x := by
  induction m with
  | nil =>
    by_cases hb : b = Memory.unlisted
    · simp [Memory.write, Memory.read, hb]
    · by_cases hx : x = a <;> simp [Memory.write, Memory.read, hb, hx]
  | cons c m ih =>
    obtain ⟨k, v⟩ := c
    obtain ⟨hk, -, hm⟩ := (Memory.wf_cons k v m).mp hm
    have hlow : ∀ y, y ≤ k → Memory.read m y = Memory.unlisted := fun y hy =>
      Memory.read_eq_unlisted m y fun c hc => lt_of_le_of_lt hy (hk c hc)
    rcases Nat.lt_trichotomy a k with h | h | h
    · by_cases hb : b = Memory.unlisted
      · by_cases hx : x = a <;> simp [Memory.write, Memory.read, hb, h, hx]
      · by_cases hx : x = a
        · simp [Memory.write, Memory.read, hb, h, hx]
        · by_cases hxa : x < a
          · simp [Memory.write, Memory.read, hb, h, hx, hxa, hxa.trans h]
          · simp [Memory.write, Memory.read, hb, h, hx, hxa]
    · subst h
      by_cases hb : b = Memory.unlisted
      · by_cases hx : x = a
        · simp [Memory.write, hb, hx, hlow a le_rfl]
        · by_cases hxa : x < a
          · simp [Memory.write, Memory.read, hb, hx, hxa, hlow x hxa.le]
          · simp [Memory.write, Memory.read, hb, hx, hxa]
      · by_cases hx : x = a <;> simp [Memory.write, Memory.read, hb, hx]
    · have hne : a ≠ k := by omega
      by_cases hx : x < k
      · have hxa : x ≠ a := by omega
        simp [Memory.write, Memory.read, h.not_gt, hne, hx, hxa]
      · by_cases hxk : x = k
        · simp [Memory.write, Memory.read, h.not_gt, hne, hxk, hne.symm]
        · simp [Memory.write, Memory.read, h.not_gt, hne, hx, hxk, ih hm]

theorem Memory.mem_write {m : Memory} {a : Nat} {b : Byte} {c : Host.Cell} (h : c ∈ m.write a b) :
    c ∈ m ∨ (c = (a, b) ∧ b ≠ Memory.unlisted) := by
  induction m with
  | nil => simp only [Memory.write] at h; split at h <;> simp_all
  | cons d m ih =>
    obtain ⟨k, v⟩ := d
    simp only [Memory.write] at h
    split at h
    · split at h <;> simp_all; tauto
    · split at h
      · split at h <;> simp_all; tauto
      · simp only [List.mem_cons] at h ⊢
        rcases h with h | h
        · exact .inl (.inl h)
        · rcases ih h with h | h
          · exact .inl (.inr h)
          · exact .inr h

/-- A write keeps the canonical form. -/
theorem Memory.wf_write (m : Memory) (hm : m.wf) (a : Nat) (b : Byte) : (m.write a b).wf := by
  induction m with
  | nil =>
    simp only [Memory.write]
    split
    · exact hm
    · rename_i hb; exact (Memory.wf_cons a b []).mpr ⟨by simp, hb, by simp [Memory.wf]⟩
  | cons c m ih =>
    obtain ⟨k, v⟩ := c
    obtain ⟨hk, hv, hm'⟩ := (Memory.wf_cons k v m).mp hm
    simp only [Memory.write]
    split
    · rename_i hak
      split
      · exact hm
      · rename_i hb
        refine (Memory.wf_cons a b _).mpr ⟨?_, hb, hm⟩
        intro c hc
        rcases List.mem_cons.mp hc with rfl | hc
        · exact hak
        · exact hak.trans (hk c hc)
    · split
      · rename_i hka; subst hka
        split
        · exact hm'
        · rename_i hb; exact (Memory.wf_cons _ b m).mpr ⟨hk, hb, hm'⟩
      · refine (Memory.wf_cons k v _).mpr ⟨?_, hv, ih hm'⟩
        intro c hc
        rcases Memory.mem_write hc with hc | ⟨rfl, -⟩
        · exact hk c hc
        · show k < a; omega

/-! ### Addresses of the bytes of an access -/

theorem byteAddr_zero (addr : Word) : byteAddr addr 0 = addr.toNat := by simp [byteAddr]

theorem byteAddr_lt (addr : Word) (k : Nat) : byteAddr addr k < 2 ^ 32 := (addr + BitVec.ofNat 32 k).isLt

theorem byteAddr_eq (addr : Word) (k : Nat) : byteAddr addr k = (addr.toNat + k) % 2 ^ 32 := by
  simp [byteAddr, BitVec.toNat_add, BitVec.toNat_ofNat]

/-- The bytes of one access have different addresses. -/
theorem byteAddr_inj (addr : Word) {j k : Nat} (hj : j < 4) (hk : k < 4) :
    byteAddr addr j = byteAddr addr k ↔ j = k := by
  rw [byteAddr_eq, byteAddr_eq]; omega

/-! ### Little-endian access -/

theorem Memory.wf_store (m : Memory) (hm : m.wf) (addr : Word) (w : Width) (v : Word) : (m.store addr w v).wf := by
  cases w <;> simp only [Memory.store] <;> repeat first | exact hm | apply Memory.wf_write

/-- The bytes after a store: byte `k` of the value at the `k`-th address of the access, every other byte as before
(spec 20 R51, R56). -/
theorem Memory.read_store (m : Memory) (hm : m.wf) (addr : Word) (w : Width) (v : Word) (x : Nat) :
    (m.store addr w v).read x =
      if w.bytes > 3 ∧ x = byteAddr addr 3 then byteOf v 3
      else if w.bytes > 2 ∧ x = byteAddr addr 2 then byteOf v 2
      else if w.bytes > 1 ∧ x = byteAddr addr 1 then byteOf v 1
      else if x = byteAddr addr 0 then byteOf v 0
      else m.read x := by
  have w1 := Memory.wf_write m hm (byteAddr addr 0) (byteOf v 0)
  have w2 := Memory.wf_write _ w1 (byteAddr addr 1) (byteOf v 1)
  have w3 := Memory.wf_write _ w2 (byteAddr addr 2) (byteOf v 2)
  cases w <;> simp only [Memory.store, Width.bytes]
  · rw [Memory.read_write _ hm]; simp
  · rw [Memory.read_write _ w1, Memory.read_write _ hm]; simp
  · rw [Memory.read_write _ w3, Memory.read_write _ w2, Memory.read_write _ w1, Memory.read_write _ hm]; simp

/-- A store leaves every byte outside its access alone (spec 20 R52). -/
theorem Memory.read_store_outside (m : Memory) (hm : m.wf) (addr : Word) (w : Width) (v : Word) (x : Nat)
    (h : ∀ k < w.bytes, x ≠ byteAddr addr k) : (m.store addr w v).read x = m.read x := by
  rw [Memory.read_store m hm]
  cases w <;> simp_all [Width.bytes]

/-- A stored byte reads back (spec 20 R56). -/
theorem Memory.read_store_inside (m : Memory) (hm : m.wf) (addr : Word) (w : Width) (v : Word) (k : Nat)
    (h : k < w.bytes) : (m.store addr w v).read (byteAddr addr k) = byteOf v k := by
  rw [Memory.read_store m hm]
  cases w <;> simp only [Width.bytes] at h ⊢
  · obtain rfl : k = 0 := by omega
    simp
  · rcases (by omega : k = 0 ∨ k = 1) with rfl | rfl <;> simp [byteAddr_inj]
  · rcases (by omega : k = 0 ∨ k = 1 ∨ k = 2 ∨ k = 3) with rfl | rfl | rfl | rfl <;> simp [byteAddr_inj]

/-! ### Bytes placed by a list, and by the image load -/

theorem Memory.wf_placeBytes (bytes : List Byte) (addr : Word) (m : Memory) (hm : m.wf) : (placeBytes bytes addr m).wf := by
  induction bytes generalizing addr m with
  | nil => exact hm
  | cons b rest ih => exact ih _ _ (Memory.wf_write m hm _ _)

theorem cellsFrom_range (bytes : Nat → Byte) (base count : Nat) {c : Host.Cell} (h : c ∈ cellsFrom bytes base count) :
    base ≤ c.1 ∧ c.1 < base + count ∧ c.2 ≠ Memory.unlisted := by
  induction count generalizing base with
  | zero => simp [cellsFrom] at h
  | succ n ih =>
    simp only [cellsFrom] at h
    split at h
    · obtain ⟨h1, h2, h3⟩ := ih _ h
      exact ⟨by omega, by omega, h3⟩
    · rename_i hb
      rcases List.mem_cons.mp h with rfl | h
      · simp [hb]
      · obtain ⟨h1, h2, h3⟩ := ih _ h
        exact ⟨by omega, by omega, h3⟩

theorem Memory.wf_cellsFrom (bytes : Nat → Byte) (base count : Nat) : (cellsFrom bytes base count).wf := by
  induction count generalizing base with
  | zero => simp [cellsFrom, Memory.wf]
  | succ n ih =>
    simp only [cellsFrom]
    split
    · exact ih _
    · rename_i hb
      refine (Memory.wf_cons _ _ _).mpr ⟨fun c hc => ?_, hb, ih _⟩
      have := cellsFrom_range _ _ _ hc; omega

theorem Memory.wf_append (m n : Memory) (hm : m.wf) (hn : n.wf) (h : ∀ a ∈ m, ∀ b ∈ n, a.1 < b.1) :
    Memory.wf (m ++ n) := by
  refine ⟨List.pairwise_append.mpr ⟨hm.1, hn.1, h⟩, fun c hc => ?_⟩
  rcases List.mem_append.mp hc with hc | hc
  · exact hm.2 c hc
  · exact hn.2 c hc

/-- The initial memory is in canonical form (spec 20 R50, 70 R249). -/
theorem Memory.wf_imageMemory (p : Config.Params) (hp : p.legal) (image : List Byte) (romFill ramInit : Nat → Byte) :
    (imageMemory p image romFill ramInit).wf := by
  refine Memory.wf_append _ _ (Memory.wf_cellsFrom ..) (Memory.wf_cellsFrom ..) fun a ha b hb => ?_
  have h1 := cellsFrom_range _ _ _ ha
  have h2 := cellsFrom_range _ _ _ hb
  have := hp.2.2.1
  simp only [Config.romBase] at h1
  omega

theorem Memory.wf_reset : State.reset.mem.wf := by decide

end Sys2Proof.Machine
end

