-- ==== Sys2Proof/Laws/Access.lean ====
section
/-! SUPPORT. What the shared operations answer: outcomes in sequence, the access primitives, the transfers of many registers. -/

namespace Sys2Proof.Machine

/-! ### Outcomes in sequence -/

theorem orFault_eq_next {α : Type} {e : Except Fault α} {k : α → Result} {t : State} :
    orFault e k = .next t ↔ ∃ a, e = .ok a ∧ k a = .next t := by
  cases e <;> simp [orFault]

theorem orFault_eq_fault {α : Type} {e : Except Fault α} {k : α → Result} {f : Fault} :
    orFault e k = .fault f ↔ e = .error f ∨ ∃ a, e = .ok a ∧ k a = .fault f := by
  cases e <;> simp [orFault]

theorem orFault_eq_refused {α : Type} {e : Except Fault α} {k : α → Result} {r : Refusal} :
    orFault e k = .refused r ↔ ∃ a, e = .ok a ∧ k a = .refused r := by
  cases e <;> simp [orFault]

@[simp] theorem orFault_ok {α : Type} (a : α) (k : α → Result) : orFault (.ok a) k = k a := rfl

@[simp] theorem orFault_error {α : Type} (f : Fault) (k : α → Result) : orFault (.error f) k = .fault f := rfl

theorem andThen_eq_next {o : Result} {k : State → Result} {t : State} :
    andThen o k = .next t ↔ ∃ u, o = .next u ∧ k u = .next t := by
  cases o <;> simp [andThen]

theorem andThen_eq_fault {o : Result} {k : State → Result} {f : Fault} :
    andThen o k = .fault f ↔ o = .fault f ∨ ∃ u, o = .next u ∧ k u = .fault f := by
  cases o <;> simp [andThen]

@[simp] theorem andThen_next (s : State) (k : State → Result) : andThen (.next s) k = k s := rfl

@[simp] theorem andThen_fault (f : Fault) (k : State → Result) : andThen (.fault f) k = .fault f := rfl

/-! ### One access (spec 20 R55, R56) -/

theorem memRead_eq_ok {s : State} {addr : Word} {w : Width} {v : Word} :
    memRead s addr w = .ok v ↔
      aligned addr w = true ∧ allMapped s.params addr w = true ∧ v = s.mem.load addr w := by
  unfold memRead
  cases aligned addr w <;> cases allMapped s.params addr w <;> simp [eq_comm]

theorem memRead_eq_error {s : State} {addr : Word} {w : Width} {f : Fault} :
    memRead s addr w = .error f ↔
      (aligned addr w = false ∧ f = .alignmentFault addr w.bytes) ∨
      (aligned addr w = true ∧ allMapped s.params addr w = false ∧ f = .memoryFault addr w.bytes .read) := by
  unfold memRead
  cases aligned addr w <;> cases allMapped s.params addr w <;> simp [eq_comm]

theorem memWrite_eq_ok {s t : State} {addr : Word} {w : Width} {v : Word} :
    memWrite s addr w v = .ok t ↔
      aligned addr w = true ∧ allData s.params addr w = true ∧ t = s.setMem (s.mem.store addr w v) := by
  unfold memWrite
  cases aligned addr w <;> cases allData s.params addr w <;> simp [eq_comm]

theorem memWrite_eq_error {s : State} {addr : Word} {w : Width} {v : Word} {f : Fault} :
    memWrite s addr w v = .error f ↔
      (aligned addr w = false ∧ f = .alignmentFault addr w.bytes) ∨
      (aligned addr w = true ∧ allData s.params addr w = false ∧ f = .memoryFault addr w.bytes .write) := by
  unfold memWrite
  cases aligned addr w <;> cases allData s.params addr w <;> simp [eq_comm]

/-- A read sees only memory and the parameters. -/
theorem memRead_congr {s s' : State} (hm : s'.mem = s.mem) (hp : s'.params = s.params) (addr : Word) (w : Width) :
    memRead s' addr w = memRead s addr w := by
  simp [memRead, hm, hp]

/-- A fetch sees only memory and the parameters. -/
theorem fetchHalf_congr {s s' : State} (hm : s'.mem = s.mem) (hp : s'.params = s.params) (addr : Word) :
    fetchHalf s' addr = fetchHalf s addr := by
  simp [fetchHalf, hm, hp]

theorem allData_iff {p : Config.Params} {addr : Word} {w : Width} :
    allData p addr w = true ↔ ∀ k < w.bytes, inData p (byteAddr addr k) = true := by
  simp [allData, List.all_eq_true]

theorem allMapped_iff {p : Config.Params} {addr : Word} {w : Width} :
    allMapped p addr w = true ↔ ∀ k < w.bytes, mapped p (byteAddr addr k) = true := by
  simp [allMapped, List.all_eq_true]

/-- A store that completes writes listed bytes of the data region only. -/
theorem memWrite_mem {s t : State} {addr : Word} {w : Width} {v : Word} (h : memWrite s addr w v = .ok t) :
    t = s.setMem t.mem ∧ (s.mem.wf → t.mem.wf) ∧
      (s.mem.wf → ∀ a, inData s.params a = false → t.mem.read a = s.mem.read a) := by
  obtain ⟨-, hd, rfl⟩ := memWrite_eq_ok.mp h
  refine ⟨rfl, fun hm => Memory.wf_store _ hm _ _ _, fun hm a ha => Memory.read_store_outside _ hm _ _ _ _ ?_⟩
  rintro k hk rfl
  simp [allData_iff.mp hd k hk] at ha

/-! ### Aligned accesses: the first byte decides (spec 20 R47, R53) -/

theorem aligned_iff {addr : Word} {w : Width} : aligned addr w = true ↔ addr.toNat % w.bytes = 0 := by
  simp [aligned]

theorem byteAddr_of_aligned {addr : Word} {w : Width} (h : addr.toNat % w.bytes = 0) {k : Nat} (hk : k < w.bytes) :
    byteAddr addr k = addr.toNat + k := by
  have := addr.isLt
  rw [byteAddr_eq]
  cases w <;> simp only [Width.bytes] at h hk <;> omega

theorem inData_iff (p : Config.Params) (a : Nat) :
    inData p a = true ↔ 0x20000000 ≤ a ∧ a < 0x20000000 + p.ramSize := by
  rw [inData, Bool.and_eq_true, decide_eq_true_iff, decide_eq_true_iff]; rfl

theorem inProgram_iff (p : Config.Params) (a : Nat) : inProgram p a = true ↔ a < p.romSize := by
  rw [inProgram, Bool.and_eq_true, decide_eq_true_iff, decide_eq_true_iff, Config.romBase]; omega

theorem mapped_iff (p : Config.Params) (a : Nat) : mapped p a = true ↔ inProgram p a = true ∨ inData p a = true := by
  simp [mapped]

theorem inData_of_aligned {p : Config.Params} (hp : p.legal) {addr : Word} {w : Width} (h : addr.toNat % w.bytes = 0)
    {k : Nat} (hk : k < w.bytes) : inData p (byteAddr addr k) = inData p addr.toNat := by
  rw [byteAddr_of_aligned h hk]
  obtain ⟨-, -, -, -, h4, -⟩ := hp
  rw [Bool.eq_iff_iff]
  simp only [inData_iff]
  cases w <;> simp only [Width.bytes] at h hk <;> omega

theorem inProgram_of_aligned {p : Config.Params} (hp : p.legal) {addr : Word} {w : Width}
    (h : addr.toNat % w.bytes = 0) {k : Nat} (hk : k < w.bytes) :
    inProgram p (byteAddr addr k) = inProgram p addr.toNat := by
  rw [byteAddr_of_aligned h hk]
  obtain ⟨-, h4, -⟩ := hp
  rw [Bool.eq_iff_iff]
  simp only [inProgram_iff]
  cases w <;> simp only [Width.bytes] at h hk <;> omega

theorem Width.bytes_pos (w : Width) : 0 < w.bytes := by cases w <;> decide

/-- An aligned access lies in the data region when its first byte does. -/
theorem allData_of_aligned {p : Config.Params} (hp : p.legal) {addr : Word} {w : Width} (h : addr.toNat % w.bytes = 0) :
    allData p addr w = inData p addr.toNat := by
  rw [Bool.eq_iff_iff, allData_iff]
  refine ⟨fun hd => ?_, fun hd k hk => (inData_of_aligned hp h hk).trans hd⟩
  simpa [byteAddr_zero] using hd 0 w.bytes_pos

/-- An aligned access lies in the regions when its first byte does. -/
theorem allMapped_of_aligned {p : Config.Params} (hp : p.legal) {addr : Word} {w : Width} (h : addr.toNat % w.bytes = 0) :
    allMapped p addr w = mapped p addr.toNat := by
  rw [Bool.eq_iff_iff, allMapped_iff]
  refine ⟨fun hd => ?_, fun hd k hk => ?_⟩
  · simpa [byteAddr_zero] using hd 0 w.bytes_pos
  · rw [mapped, inData_of_aligned hp h hk, inProgram_of_aligned hp h hk]; exact hd

/-! ### Transfers of many registers (spec 20 R58, 44) -/

/-- The address of the next word, then word `k`. -/
theorem wordAddr_succ (addr : Word) (k : Nat) :
    addr + BitVec.ofNat 32 (4 * (k + 1)) = addr + 4#32 + BitVec.ofNat 32 (4 * k) := by
  apply BitVec.eq_of_toNat_eq; simp [BitVec.toNat_add]; omega

/-- A completed load of many registers: memory and all that is not a register of the list is as before. -/
theorem loadRegs_frame {rs : List Reg} {addr : Word} {s t : State} (h : loadRegs rs addr s = .ok t) :
    t = { s with cpu := { s.cpu with regs := t.cpu.regs } } ∧ ∀ r : Reg, r ∉ rs → t.x r = s.x r := by
  induction rs generalizing addr s with
  | nil => simp only [loadRegs, Except.ok.injEq] at h; subst h; simp
  | cons r rest ih =>
    simp only [loadRegs] at h
    split at h
    · obtain ⟨h1, h2⟩ := ih h
      refine ⟨?_, fun q hq => ?_⟩
      · rw [h1]
        by_cases hr : r.val < 15 <;> simp [State.setX, Cpu.write, hr]
      · simp only [List.mem_cons, not_or] at hq
        rw [h2 q hq.2, State.x_setX_of_ne _ _ _ _ hq.1]
    · simp at h

/-- A load of many registers completes exactly when each word can be read; with no register twice, register `k` gets word `k`. -/
theorem loadRegs_ok {rs : List Reg} {addr : Word} {s : State}
    (hok : ∀ k < rs.length, aligned (addr + BitVec.ofNat 32 (4 * k)) .word = true ∧
      allMapped s.params (addr + BitVec.ofNat 32 (4 * k)) .word = true) :
    ∃ t, loadRegs rs addr s = .ok t ∧
      (rs.Nodup → (∀ r ∈ rs, r.val < 15) → ∀ k (hk : k < rs.length),
        t.x rs[k] = s.mem.load (addr + BitVec.ofNat 32 (4 * k)) .word) := by
  induction rs generalizing addr s with
  | nil => exact ⟨s, rfl, by simp⟩
  | cons r rest ih =>
    have h0 := hok 0 (by simp)
    simp only [Nat.mul_zero, BitVec.add_zero] at h0
    have hread : memRead s addr .word = .ok (s.mem.load addr .word) := memRead_eq_ok.mpr ⟨h0.1, h0.2, rfl⟩
    obtain ⟨t, ht, hx⟩ := ih (addr := addr + 4#32) (s := s.setX r (s.mem.load addr .word)) fun k hk => by
      have := hok (k + 1) (by simpa using hk)
      simpa [wordAddr_succ] using this
    refine ⟨t, by simp [loadRegs, hread, ht], fun hn hr k hk => ?_⟩
    obtain ⟨hnr, hn'⟩ := List.nodup_cons.mp hn
    cases k with
    | zero =>
      have := (loadRegs_frame ht).2 r hnr
      simp [this, hr r (by simp)]
    | succ k =>
      have := hx hn' (fun q hq => hr q (by simp [hq])) k (by simpa using hk)
      simpa [wordAddr_succ] using this

/-- A load of many registers whose words before `k` can be read and whose word `k` cannot raises the fault of word `k`. -/
theorem loadRegs_error {rs : List Reg} {addr : Word} {s : State} {k : Nat} (hk : k < rs.length) {f : Fault}
    (hok : ∀ j < k, aligned (addr + BitVec.ofNat 32 (4 * j)) .word = true ∧
      allMapped s.params (addr + BitVec.ofNat 32 (4 * j)) .word = true)
    (hf : memRead s (addr + BitVec.ofNat 32 (4 * k)) .word = .error f) :
    loadRegs rs addr s = .error f := by
  induction rs generalizing addr s k with
  | nil => simp at hk
  | cons r rest ih =>
    cases k with
    | zero =>
      simp only [Nat.mul_zero, BitVec.add_zero] at hf
      simp [loadRegs, hf]
    | succ k =>
      have h0 := hok 0 (by simp)
      simp only [Nat.mul_zero, BitVec.add_zero] at h0
      have hread : memRead s addr .word = .ok (s.mem.load addr .word) := memRead_eq_ok.mpr ⟨h0.1, h0.2, rfl⟩
      simp only [loadRegs, hread]
      refine ih (k := k) (by simpa using hk) (fun j hj => ?_) ?_
      · have := hok (j + 1) (by omega)
        simpa [wordAddr_succ] using this
      · rw [memRead_congr (s := s) (s' := s.setX _ _) rfl rfl, ← wordAddr_succ]; exact hf

/-- A completed store of many registers changes memory only, keeps its canonical form, and writes the data region only. -/
theorem storeRegs_frame {rs : List Reg} {addr : Word} {s t : State} (h : storeRegs rs addr s = .ok t) :
    t = s.setMem t.mem ∧ (s.mem.wf → t.mem.wf) ∧
      (s.mem.wf → ∀ a, inData s.params a = false → t.mem.read a = s.mem.read a) ∧
      (s.mem.wf → ∀ a, (∀ k < rs.length, ∀ j < 4, a ≠ byteAddr (addr + BitVec.ofNat 32 (4 * k)) j) →
        t.mem.read a = s.mem.read a) := by
  induction rs generalizing addr s with
  | nil => simp only [storeRegs, Except.ok.injEq] at h; subst h; exact ⟨rfl, id, fun _ _ _ => rfl, fun _ _ _ => rfl⟩
  | cons r rest ih =>
    simp only [storeRegs] at h
    split at h
    · rename_i s1 hs1
      obtain ⟨e1, w1, d1⟩ := memWrite_mem hs1
      obtain ⟨-, -, e1'⟩ := memWrite_eq_ok.mp hs1
      obtain ⟨e2, w2, d2, o2⟩ := ih h
      have hp : s1.params = s.params := by rw [e1]; rfl
      refine ⟨by rw [e2, e1]; rfl, fun hm => w2 (w1 hm), fun hm a ha => ?_, fun hm a ha => ?_⟩
      · rw [d2 (w1 hm) a (by rwa [hp]), d1 hm a ha]
      · rw [o2 (w1 hm) a fun k hk j hj => ?_]
        · rw [e1']
          rw [State.setMem_mem]
          refine Memory.read_store_outside _ hm _ _ _ _ fun j hj => ?_
          simpa using ha 0 (by simp) j hj
        · have := ha (k + 1) (by simpa using hk) j hj
          rwa [wordAddr_succ] at this
    · simp at h

/-- A store of many registers completes when each word can be written. -/
theorem storeRegs_ok {rs : List Reg} {addr : Word} {s : State}
    (hok : ∀ k < rs.length, aligned (addr + BitVec.ofNat 32 (4 * k)) .word = true ∧
      allData s.params (addr + BitVec.ofNat 32 (4 * k)) .word = true) :
    ∃ t, storeRegs rs addr s = .ok t := by
  induction rs generalizing addr s with
  | nil => exact ⟨s, rfl⟩
  | cons r rest ih =>
    have h0 := hok 0 (by simp)
    simp only [Nat.mul_zero, BitVec.add_zero] at h0
    have hw : memWrite s addr .word (s.x r) = .ok (s.setMem (s.mem.store addr .word (s.x r))) :=
      memWrite_eq_ok.mpr ⟨h0.1, h0.2, rfl⟩
    simp only [storeRegs, hw]
    refine ih fun k hk => ?_
    have := hok (k + 1) (by simpa using hk)
    simpa [wordAddr_succ] using this

/-- A store of many registers whose words before `k` can be written and whose word `k` cannot raises the fault of word `k`. -/
theorem storeRegs_error {rs : List Reg} {addr : Word} {s : State} {k : Nat} (hk : k < rs.length) {f : Fault}
    (hok : ∀ j < k, aligned (addr + BitVec.ofNat 32 (4 * j)) .word = true ∧
      allData s.params (addr + BitVec.ofNat 32 (4 * j)) .word = true)
    (hf : ∀ v, memWrite s (addr + BitVec.ofNat 32 (4 * k)) .word v = .error f) :
    storeRegs rs addr s = .error f := by
  induction rs generalizing addr s k with
  | nil => simp at hk
  | cons r rest ih =>
    cases k with
    | zero =>
      have hf := hf (s.x r)
      simp only [Nat.mul_zero, BitVec.add_zero] at hf
      simp [storeRegs, hf]
    | succ k =>
      have h0 := hok 0 (by simp)
      simp only [Nat.mul_zero, BitVec.add_zero] at h0
      have hw : memWrite s addr .word (s.x r) = .ok (s.setMem (s.mem.store addr .word (s.x r))) :=
        memWrite_eq_ok.mpr ⟨h0.1, h0.2, rfl⟩
      simp only [storeRegs, hw]
      refine ih (k := k) (by simpa using hk) (fun j hj => ?_) fun v => ?_
      · have := hok (j + 1) (by omega)
        simpa [wordAddr_succ] using this
      · have := hf v
        rw [wordAddr_succ] at this
        rw [memWrite_eq_error] at this ⊢
        simpa using this

/-- After a completed store of many registers to addresses that do not overlap, word `k` is register `k`. -/
theorem storeRegs_stored {rs : List Reg} {addr : Word} {s t : State} (h : storeRegs rs addr s = .ok t) (hm : s.mem.wf)
    (hlen : 4 * rs.length < 2 ^ 32) {k : Nat} (hk : k < rs.length) {j : Nat} (hj : j < 4) :
    t.mem.read (byteAddr (addr + BitVec.ofNat 32 (4 * k)) j) = byteOf (s.x rs[k]) j := by
  induction rs generalizing addr s k with
  | nil => simp at hk
  | cons r rest ih =>
    simp only [storeRegs] at h
    split at h
    · rename_i s1 hs1
      obtain ⟨e1, w1, -⟩ := memWrite_mem hs1
      obtain ⟨-, -, e1'⟩ := memWrite_eq_ok.mp hs1
      cases k with
      | zero =>
        rw [(storeRegs_frame h).2.2.2 (w1 hm) _ fun i hi b hb => ?_, e1']
        · simpa using Memory.read_store_inside s.mem hm addr .word (s.x r) j hj
        · simp only [List.length_cons] at hlen
          rw [byteAddr_eq, byteAddr_eq]
          simp only [Nat.mul_zero, BitVec.toNat_add, BitVec.toNat_ofNat]
          omega
      | succ k =>
        have := ih h (w1 hm) (by simp at hlen; omega) (k := k) (by simpa using hk)
        rw [wordAddr_succ, this, e1]
        rfl
    · simp at h

/-! ### Register lists (spec 30 R71) -/

theorem listRegs_nodup (list : BitVec 8) : (listRegs list).Nodup := by
  unfold listRegs
  exact (List.Nodup.filter _ (by decide)).map fun a b h => (lo_inj a b).mp h

theorem mem_listRegs (list : BitVec 8) (r : Reg) :
    r ∈ listRegs list ↔ ∃ i : LowReg, list.getLsbD i.val = true ∧ r = lo i := by
  have : ∀ i : LowReg, i ∈ lowRegs := by decide
  simp only [listRegs, List.mem_map, List.mem_filter, this, true_and]
  exact exists_congr fun i => and_congr_right fun _ => eq_comm

theorem listRegs_lt (list : BitVec 8) (r : Reg) (h : r ∈ listRegs list) : r.val < 15 := by
  obtain ⟨i, -, rfl⟩ := (mem_listRegs list r).mp h
  exact lo_lt i

end Sys2Proof.Machine
end

