-- ==== Sys2Proof/Laws/Control.lean ====
section
/-! SUPPORT. What the branch primitives and the exception return answer, and that an instruction leaves the loop side of the
machine and the canonical form of memory alone. -/

namespace Sys2Proof.Machine

/-! ### Branches (spec 40 R106, R107; 60 R238) -/

@[simp] theorem branchTo_cpu_pcReg (target : Word) (s : State) :
    (branchTo target s).cpu.pcReg = (target &&& 0xFFFFFFFE#32) ||| 1#32 := rfl

@[simp] theorem branchTo_branchTaken (target : Word) (s : State) : (branchTo target s).branchTaken = true := rfl

@[simp] theorem branchTo_cpu_flags (target : Word) (s : State) : (branchTo target s).cpu.flags = s.cpu.flags := rfl

@[simp] theorem branchTo_cpu_primask (target : Word) (s : State) : (branchTo target s).cpu.primask = s.cpu.primask := rfl

@[simp] theorem branchTo_cpu_mode (target : Word) (s : State) : (branchTo target s).cpu.mode = s.cpu.mode := rfl

@[simp] theorem branchTo_cpu_pending (target : Word) (s : State) : (branchTo target s).cpu.pending = s.cpu.pending := rfl

@[simp] theorem branchTo_mem (target : Word) (s : State) : (branchTo target s).mem = s.mem := rfl

@[simp] theorem branchTo_exitFlag (target : Word) (s : State) : (branchTo target s).exitFlag = s.exitFlag := rfl

@[simp] theorem branchTo_stepCycles (target : Word) (s : State) : (branchTo target s).stepCycles = s.stepCycles := rfl

@[simp] theorem branchTo_scheme (target : Word) (s : State) : (branchTo target s).scheme = s.scheme := rfl

@[simp] theorem branchTo_battery (target : Word) (s : State) : (branchTo target s).battery = s.battery := rfl

@[simp] theorem branchTo_env (target : Word) (s : State) : (branchTo target s).env = s.env := rfl

@[simp] theorem branchTo_loop (target : Word) (s : State) : (branchTo target s).loop = s.loop := rfl

@[simp] theorem branchTo_params (target : Word) (s : State) : (branchTo target s).params = s.params := rfl

theorem branchTo_x (target : Word) (s : State) (r : Reg) (hr : r.val < 15) : (branchTo target s).x r = s.x r := by
  simp [branchTo, hr]

/-- All that a completed exception return does: the six registers of the frame, then SP, the flags, Thread mode and the branch
to the popped address, at EXCRET more cycles. -/
theorem exceptionReturn_eq_next {s t : State} : exceptionReturn s = .next t ↔
    ∃ s1 ret psr, loadRegs frameRegs (s.x sp) s = .ok s1 ∧ memRead s1 (s.x sp + 24#32) .word = .ok ret ∧
      memRead s1 (s.x sp + 28#32) .word = .ok psr ∧ psr.getLsbD 24 = true ∧
      t = (branchTo ret (((s1.setX sp (s.x sp + 32#32)).setFlags (Flags.ofWord psr)).setMode .thread)).charge
        (s1.stepCycles + excRetCycles) := by
  simp only [exceptionReturn, orFault_eq_next]
  constructor
  · rintro ⟨s1, h1, ret, h2, psr, h3, h4⟩
    split at h4
    · rename_i hb
      exact ⟨s1, ret, psr, h1, h2, h3, hb, by simpa [eq_comm] using h4⟩
    · simp at h4
  · rintro ⟨s1, ret, psr, h1, h2, h3, hb, rfl⟩
    exact ⟨s1, h1, ret, h2, psr, h3, by simp [hb]⟩

/-- All that a completed BXWritePC does. -/
theorem bxWritePC_eq_next {target : Word} {s t : State} : bxWritePC target s = .next t ↔
    (isExcReturn target = true ∧ exceptionReturn s = .next t) ∨
    (isExcReturn target = false ∧ target.getLsbD 0 = true ∧ t = branchTo target s) := by
  unfold bxWritePC
  cases isExcReturn target <;> cases target.getLsbD 0 <;> simp [eq_comm]

/-! ### The loop side of the machine -/

/-- Two states agree outside the CPU, memory and the signals of a step; the second is in canonical form if the first is. -/
structure CoreStep (s t : State) : Prop where
  loopSide : keepsLoop s t
  memWf : s.mem.wf → t.mem.wf

theorem CoreStep.refl {s : State} : CoreStep s s := ⟨⟨rfl, rfl, rfl, rfl, rfl⟩, id⟩

theorem CoreStep.trans {s t u : State} (h : CoreStep s t) (h' : CoreStep t u) : CoreStep s u :=
  ⟨⟨h'.1.1.trans h.1.1, h'.1.2.1.trans h.1.2.1, h'.1.2.2.1.trans h.1.2.2.1, h'.1.2.2.2.1.trans h.1.2.2.2.1,
    h'.1.2.2.2.2.trans h.1.2.2.2.2⟩, fun hm => h'.2 (h.2 hm)⟩

/-- States that differ in nothing but CPU and signals. -/
theorem CoreStep.of_mem_eq {s t : State} (hl : keepsLoop s t) (hm : t.mem = s.mem) : CoreStep s t :=
  ⟨hl, fun h => hm ▸ h⟩

theorem CoreStep.loadRegs {rs : List Reg} {addr : Word} {s t : State} (h : loadRegs rs addr s = .ok t) : CoreStep s t := by
  rw [(loadRegs_frame h).1]
  exact .of_mem_eq ⟨rfl, rfl, rfl, rfl, rfl⟩ (rfl)

theorem CoreStep.storeRegs {rs : List Reg} {addr : Word} {s t : State} (h : storeRegs rs addr s = .ok t) :
    CoreStep s t := by
  obtain ⟨h1, h2, -⟩ := storeRegs_frame h
  refine ⟨?_, h2⟩
  rw [h1]; exact ⟨rfl, rfl, rfl, rfl, rfl⟩

theorem CoreStep.memWrite {addr : Word} {w : Width} {v : Word} {s t : State} (h : memWrite s addr w v = .ok t) :
    CoreStep s t := by
  obtain ⟨h1, h2, -⟩ := memWrite_mem h
  refine ⟨?_, h2⟩
  rw [h1]; exact ⟨rfl, rfl, rfl, rfl, rfl⟩

theorem CoreStep.exceptionReturn {s t : State} (h : exceptionReturn s = .next t) : CoreStep s t := by
  obtain ⟨s1, ret, psr, h1, -, -, -, rfl⟩ := exceptionReturn_eq_next.mp h
  exact (CoreStep.loadRegs h1).trans (.of_mem_eq ⟨rfl, rfl, rfl, rfl, rfl⟩ rfl)

theorem CoreStep.bxWritePC {target : Word} {s t : State} (h : bxWritePC target s = .next t) : CoreStep s t := by
  rcases bxWritePC_eq_next.mp h with ⟨-, h⟩ | ⟨-, -, rfl⟩
  · exact .exceptionReturn h
  · exact .of_mem_eq ⟨rfl, rfl, rfl, rfl, rfl⟩ rfl

theorem CoreStep.storeFrom {rt : Reg} {addr : Word} {w : Width} {s t : State} (h : storeFrom rt addr w s = .next t) :
    CoreStep s t := by
  simp only [Machine.storeFrom, orFault_eq_next, Host.Outcome.next.injEq] at h
  obtain ⟨u, hu, rfl⟩ := h
  exact (CoreStep.memWrite hu).trans (.of_mem_eq ⟨rfl, rfl, rfl, rfl, rfl⟩ rfl)

theorem CoreStep.loadInto {rt : Reg} {addr : Word} {w : Width} {e : Word → Word} {s t : State}
    (h : loadInto rt addr w e s = .next t) : CoreStep s t := by
  simp only [Machine.loadInto, orFault_eq_next, Host.Outcome.next.injEq] at h
  obtain ⟨v, -, rfl⟩ := h
  exact .of_mem_eq ⟨rfl, rfl, rfl, rfl, rfl⟩ rfl

/-- The meanings that touch neither memory nor the loop side, by their shared tails. -/
theorem CoreStep.writeAdd {rd : Reg} {r : AddOut} {s t : State} (h : writeAdd rd r s = .next t) : CoreStep s t := by
  simp only [Machine.writeAdd, Host.Outcome.next.injEq] at h
  subst h; exact .of_mem_eq ⟨rfl, rfl, rfl, rfl, rfl⟩ rfl

theorem CoreStep.compareAdd {r : AddOut} {s t : State} (h : compareAdd r s = .next t) : CoreStep s t := by
  simp only [Machine.compareAdd, Host.Outcome.next.injEq] at h
  subst h; exact .of_mem_eq ⟨rfl, rfl, rfl, rfl, rfl⟩ rfl

theorem CoreStep.writeLogical {rd : Reg} {r : Word} {c : CycleClass} {s t : State}
    (h : writeLogical rd r c s = .next t) : CoreStep s t := by
  simp only [Machine.writeLogical, Host.Outcome.next.injEq] at h
  subst h; exact .of_mem_eq ⟨rfl, rfl, rfl, rfl, rfl⟩ rfl

theorem CoreStep.writeShift {rd : Reg} {r : Word × Bool} {s t : State} (h : writeShift rd r s = .next t) :
    CoreStep s t := by
  simp only [Machine.writeShift, Host.Outcome.next.injEq] at h
  subst h; exact .of_mem_eq ⟨rfl, rfl, rfl, rfl, rfl⟩ rfl

theorem CoreStep.writePlain {rd : Reg} {r : Word} {c : CycleClass} {s t : State} (h : writePlain rd r c s = .next t) :
    CoreStep s t := by
  simp only [Machine.writePlain, Host.Outcome.next.injEq] at h
  subst h; exact .of_mem_eq ⟨rfl, rfl, rfl, rfl, rfl⟩ rfl

theorem CoreStep.writeOrBranch {rd : Reg} {r : Word} {s t : State} (h : writeOrBranch rd r s = .next t) :
    CoreStep s t := by
  unfold Machine.writeOrBranch at h
  split at h <;> simp only [Host.Outcome.next.injEq] at h <;> subst h <;> exact .of_mem_eq ⟨rfl, rfl, rfl, rfl, rfl⟩ rfl

theorem CoreStep.writeSysReg {i : Instr} {r : SysReg} {v : Word} {s t : State} (h : writeSysReg i r v s = .next t) :
    CoreStep s t := by
  cases r <;> simp only [Machine.writeSysReg, raiseMalformed] at h
  case control => split at h <;> simp at h; subst h; exact .of_mem_eq ⟨rfl, rfl, rfl, rfl, rfl⟩ rfl
  all_goals
    simp only [Host.Outcome.next.injEq] at h
    subst h; exact .of_mem_eq ⟨rfl, rfl, rfl, rfl, rfl⟩ rfl

theorem CoreStep.whenSystemExt {i : Instr} {k : Result} {s t : State} (h : whenSystemExt i s k = .next t)
    (hk : k = .next t → CoreStep s t) : CoreStep s t := by
  unfold Machine.whenSystemExt at h
  split at h
  · exact hk h
  · simp [raiseMalformed] at h

/-- When a PUSH completes (spec 44 R157, 70 R256). -/
theorem execPush_eq_next {m : Bool} {list : BitVec 8} {s t : State} :
    execPush m list s = .next t ↔
      ¬pushFaultsAtZero s ∧
      ∃ u, storeRegs (pushRegs m list) (s.x sp - wordsSize (pushRegs m list).length) s = .ok u ∧
        t = (u.setX sp (s.x sp - wordsSize (pushRegs m list).length)).cost (.multiple (pushRegs m list).length) := by
  simp only [execPush, orFault_eq_next]
  constructor
  · rintro ⟨u, hu, h⟩
    split at h
    · simp at h
    · simp only [Host.Outcome.next.injEq] at h; exact ⟨‹_›, u, hu, h.symm⟩
  · rintro ⟨h0, u, hu, rfl⟩; exact ⟨u, hu, by rw [if_neg h0]⟩

/-- No instruction touches the scheme, the battery, the environment, the loop or the parameters, and each keeps the canonical form of
memory. -/
theorem CoreStep.exec {i : Instr} {s t : State} (h : exec i s = .next t) : CoreStep s t := by
  cases i <;> simp only [Machine.exec] at h
  case stm rn list =>
    simp only [execStm, orFault_eq_next, Host.Outcome.next.injEq] at h
    obtain ⟨u, hu, rfl⟩ := h
    exact (CoreStep.storeRegs hu).trans (.of_mem_eq ⟨rfl, rfl, rfl, rfl, rfl⟩ rfl)
  case ldm rn list =>
    simp only [execLdm, orFault_eq_next, Host.Outcome.next.injEq] at h
    obtain ⟨u, hu, rfl⟩ := h
    refine (CoreStep.loadRegs hu).trans ?_
    split <;> exact .of_mem_eq ⟨rfl, rfl, rfl, rfl, rfl⟩ rfl
  case push m list =>
    obtain ⟨-, u, hu, rfl⟩ := execPush_eq_next.mp h
    exact (CoreStep.storeRegs hu).trans (.of_mem_eq ⟨rfl, rfl, rfl, rfl, rfl⟩ rfl)
  case pop p list =>
    simp only [execPop, orFault_eq_next] at h
    obtain ⟨u, hu, h⟩ := h
    refine (CoreStep.loadRegs hu).trans ?_
    split at h
    · obtain ⟨target, -, h⟩ := orFault_eq_next.mp h
      refine .trans ?_ (CoreStep.bxWritePC h)
      exact .of_mem_eq ⟨rfl, rfl, rfl, rfl, rfl⟩ rfl
    · simp only [Host.Outcome.next.injEq] at h
      subst h; exact .of_mem_eq ⟨rfl, rfl, rfl, rfl, rfl⟩ rfl
  case bx rm =>
    refine .trans ?_ (CoreStep.bxWritePC h)
    exact .of_mem_eq ⟨rfl, rfl, rfl, rfl, rfl⟩ rfl
  case msr r rn => exact .whenSystemExt h .writeSysReg
  case mrs rd r => exact .whenSystemExt h .writePlain
  case blx rm =>
    simp only [execBlx] at h
    split at h <;> simp at h
    subst h; exact .of_mem_eq ⟨rfl, rfl, rfl, rfl, rfl⟩ rfl
  case bCond cond imm8 =>
    simp only [execBCond] at h
    split at h <;> simp at h <;> subst h <;> exact .of_mem_eq ⟨rfl, rfl, rfl, rfl, rfl⟩ rfl
  case addsReg => exact .writeAdd h
  case subsReg => exact .writeAdd h
  case addsImm3 => exact .writeAdd h
  case subsImm3 => exact .writeAdd h
  case addsImm8 => exact .writeAdd h
  case subsImm8 => exact .writeAdd h
  case adcs => exact .writeAdd h
  case sbcs => exact .writeAdd h
  case rsbs => exact .writeAdd h
  case cmpImm => exact .compareAdd h
  case cmpReg => exact .compareAdd h
  case cmn => exact .compareAdd h
  case cmpHi => exact .compareAdd h
  case movsImm => exact .writeLogical h
  case ands => exact .writeLogical h
  case eors => exact .writeLogical h
  case orrs => exact .writeLogical h
  case bics => exact .writeLogical h
  case mvns => exact .writeLogical h
  case muls => exact .writeLogical h
  case lslsImm => exact .writeShift h
  case lsrsImm => exact .writeShift h
  case asrsImm => exact .writeShift h
  case lslsReg => exact .writeShift h
  case lsrsReg => exact .writeShift h
  case asrsReg => exact .writeShift h
  case rors => exact .writeShift h
  case adr => exact .writePlain h
  case addSpRd => exact .writePlain h
  case addSpImm7 => exact .writePlain h
  case subSpImm7 => exact .writePlain h
  case sxth => exact .writePlain h
  case sxtb => exact .writePlain h
  case uxth => exact .writePlain h
  case uxtb => exact .writePlain h
  case rev => exact .writePlain h
  case rev16 => exact .writePlain h
  case revsh => exact .writePlain h
  case addHi => exact .writeOrBranch h
  case movHi => exact .writeOrBranch h
  case ldrLit => exact .loadInto h
  case ldrReg => exact .loadInto h
  case ldrhReg => exact .loadInto h
  case ldrbReg => exact .loadInto h
  case ldrshReg => exact .loadInto h
  case ldrsbReg => exact .loadInto h
  case ldrImm => exact .loadInto h
  case ldrbImm => exact .loadInto h
  case ldrhImm => exact .loadInto h
  case ldrSp => exact .loadInto h
  case strReg => exact .storeFrom h
  case strhReg => exact .storeFrom h
  case strbReg => exact .storeFrom h
  case strImm => exact .storeFrom h
  case strbImm => exact .storeFrom h
  case strhImm => exact .storeFrom h
  case strSp => exact .storeFrom h
  case tst => simp only [execTst, Host.Outcome.next.injEq] at h; subst h; exact .of_mem_eq ⟨rfl, rfl, rfl, rfl, rfl⟩ rfl
  case b => simp only [execB, Host.Outcome.next.injEq] at h; subst h; exact .of_mem_eq ⟨rfl, rfl, rfl, rfl, rfl⟩ rfl
  case bl => simp only [execBl, Host.Outcome.next.injEq] at h; subst h; exact .of_mem_eq ⟨rfl, rfl, rfl, rfl, rfl⟩ rfl
  case bkpt => simp only [execBkpt, Host.Outcome.next.injEq] at h; subst h; exact .of_mem_eq ⟨rfl, rfl, rfl, rfl, rfl⟩ rfl
  case nop => simp only [execNop, Host.Outcome.next.injEq] at h; subst h; exact .of_mem_eq ⟨rfl, rfl, rfl, rfl, rfl⟩ rfl
  case yield => exact .whenSystemExt h fun h => by cases h; exact .of_mem_eq ⟨rfl, rfl, rfl, rfl, rfl⟩ rfl
  case sev => exact .whenSystemExt h fun h => by cases h; exact .of_mem_eq ⟨rfl, rfl, rfl, rfl, rfl⟩ rfl
  case cpsie => exact .whenSystemExt h fun h => by cases h; exact .of_mem_eq ⟨rfl, rfl, rfl, rfl, rfl⟩ rfl
  case cpsid => exact .whenSystemExt h fun h => by cases h; exact .of_mem_eq ⟨rfl, rfl, rfl, rfl, rfl⟩ rfl
  case dsb => exact .whenSystemExt h fun h => by cases h; exact .of_mem_eq ⟨rfl, rfl, rfl, rfl, rfl⟩ rfl
  case dmb => exact .whenSystemExt h fun h => by cases h; exact .of_mem_eq ⟨rfl, rfl, rfl, rfl, rfl⟩ rfl
  case isb => exact .whenSystemExt h fun h => by cases h; exact .of_mem_eq ⟨rfl, rfl, rfl, rfl, rfl⟩ rfl
  case wfe => simp [execWfe, raiseMalformed] at h
  case wfi => simp [execWfi, raiseMalformed] at h
  case svc => simp [execSvc, raiseMalformed] at h
  case udf => simp [execUdf, raiseMalformed] at h
  case udfW => simp [execUdfW, raiseMalformed] at h

/-- The same of a whole CPU step. -/
theorem CoreStep.cpuStep {s t : State} (h : cpuStep s = .next t) : CoreStep s t := by
  simp only [Machine.cpuStep] at h
  split at h
  · simp at h
  · obtain ⟨w, -, h⟩ := orFault_eq_next.mp h
    split at h
    · rename_i i _
      obtain ⟨u, hu, h⟩ := andThen_eq_next.mp h
      simp only [Host.Outcome.next.injEq] at h
      subst h
      have h0 : CoreStep s (s.setBranchTaken false) := .of_mem_eq ⟨rfl, rfl, rfl, rfl, rfl⟩ rfl
      refine (h0.trans (.exec hu)).trans ?_
      unfold advance
      split
      · exact .refl
      · split <;> exact .of_mem_eq ⟨rfl, rfl, rfl, rfl, rfl⟩ rfl
    · simp at h

end Sys2Proof.Machine
end

