-- ==== Sys2Proof/Laws/Num.lean ====
section
/-! SUPPORT. The arithmetic of `Num` where it is the exact rationals. -/

namespace Sys2Proof.Config

@[simp] theorem NumType.add_rational (a b : Quantity) : NumType.rational.add a b = a + b := rfl

@[simp] theorem NumType.sub_rational (a b : Quantity) : NumType.rational.sub a b = a - b := rfl

@[simp] theorem NumType.mul_rational (a b : Quantity) : NumType.rational.mul a b = a * b := rfl

@[simp] theorem NumType.div_rational (a b : Quantity) : NumType.rational.div a b = a / b := rfl

@[simp] theorem NumType.le_rational (a b : Quantity) : NumType.rational.le a b = decide (a ≤ b) := rfl

@[simp] theorem NumType.ofNat_rational (m : Nat) : NumType.rational.ofNat m = m := rfl

@[simp] theorem NumType.lt_rational (a b : Quantity) : NumType.rational.lt a b = decide (a < b) := by
  by_cases h : a < b <;> simp [lt, h, not_lt.mp]

@[simp] theorem NumType.isZero_rational (a : Quantity) : NumType.rational.isZero a = decide (a = 0) := by
  by_cases h : a = 0
  · simp [isZero, h]
  · simp only [isZero, le_rational, h, decide_false, Bool.and_eq_false_iff, decide_eq_false_iff_not]
    by_contra hc
    push Not at hc
    exact h (le_antisymm hc.1 hc.2)

/-- A clamped value lies between 0 and the bound. -/
theorem NumType.clamp_rational_mem {most : Quantity} (h : 0 ≤ most) (a : Quantity) :
    0 ≤ NumType.rational.clamp most a ∧ NumType.rational.clamp most a ≤ most := by
  unfold clamp
  simp only [le_rational, decide_eq_true_eq]
  split
  · exact ⟨le_refl _, h⟩
  · rename_i ha
    split
    · rename_i hm; exact ⟨le_of_not_ge fun h => ha (.inr h), hm⟩
    · exact ⟨h, le_refl _⟩

end Sys2Proof.Config
end

