-- ==== Sys2Proof/Laws/Loop.lean ====
section
/-! SUPPORT. What a step of the machine can do, said once: the calls of the scheme, the transition of a tick, its accounting and its end
(spec 49). -/

namespace Sys2Proof.Machine

/-! ### The calls of the scheme (spec 49 R205) -/

/-- What no method of the scheme and no bookkeeping of a tick touches: memory and the signals of a step, what is constant over a run,
and the scheme's methods. -/
structure Untouched (s t : State) : Prop where
  mem : t.mem = s.mem
  branchTaken : t.branchTaken = s.branchTaken
  exitFlag : t.exitFlag = s.exitFlag
  stepCycles : t.stepCycles = s.stepCycles
  env : t.env = s.env
  params : t.params = s.params
  policy : t.scheme.policy = s.scheme.policy
  clockFrequency : t.scheme.clockFrequency = s.scheme.clockFrequency
  capacitor : t.battery.capacitor = s.battery.capacitor

theorem Untouched.refl {s : State} : Untouched s s := ⟨rfl, rfl, rfl, rfl, rfl, rfl, rfl, rfl, rfl⟩

theorem Untouched.trans {s t u : State} (h : Untouched s t) (h' : Untouched t u) : Untouched s u :=
  ⟨h'.1.trans h.1, h'.2.trans h.2, h'.3.trans h.3, h'.4.trans h.4, h'.5.trans h.5, h'.6.trans h.6, h'.7.trans h.7,
    h'.8.trans h.8, h'.9.trans h.9⟩

theorem Untouched.isActive {s : State} : Untouched s s.isActive.2 :=
  ⟨rfl, rfl, rfl, rfl, rfl, rfl, rfl, rfl, rfl⟩

theorem Untouched.willBackup {s : State} : Untouched s s.willBackup.2 :=
  ⟨rfl, rfl, rfl, rfl, rfl, rfl, rfl, rfl, rfl⟩

theorem Untouched.estimateProgress {s : State} {p : Period} : Untouched s (s.estimateProgress p).2 :=
  ⟨rfl, rfl, rfl, rfl, rfl, rfl, rfl, rfl, rfl⟩

theorem Untouched.executeInstruction {s : State} : Untouched s s.executeInstruction :=
  ⟨rfl, rfl, rfl, rfl, rfl, rfl, rfl, rfl, rfl⟩

theorem Untouched.backup {s : State} : Untouched s s.backup.2 := ⟨rfl, rfl, rfl, rfl, rfl, rfl, rfl, rfl, rfl⟩

/-- Restore with a full slot, and with an empty one (spec 48 R195). -/
theorem Scheme.restore_eq (sch : Scheme) (cpu : Cpu) :
    sch.restore cpu = ({ sch with slot := none }, sch.slot.getD cpu) := by
  unfold Scheme.restore
  rcases sch with ⟨_ | saved, _, _, _⟩ <;> rfl

theorem Untouched.restore {s : State} : Untouched s s.restore.2 := by
  refine ⟨rfl, rfl, rfl, rfl, rfl, rfl, ?_, ?_, rfl⟩ <;> simp [State.restore, Scheme.restore_eq]

theorem Untouched.setCur {s : State} {p : Period} : Untouched s (s.setCur p) :=
  ⟨rfl, rfl, rfl, rfl, rfl, rfl, rfl, rfl, rfl⟩

theorem Untouched.useBattery {s : State} : Untouched s s.useBattery := ⟨rfl, rfl, rfl, rfl, rfl, rfl, rfl, rfl, rfl⟩

/-- A metered call touches nothing that the call itself does not. -/
theorem Untouched.metered {α : Type} {call : State → α × State} (h : ∀ s, Untouched s (call s).2) {s : State} :
    Untouched s (s.metered call).2 := .trans .useBattery (.trans (h s.useBattery) .useBattery)

/-! What a metered call gives, in terms of the call (spec 49 R215). -/

@[simp] theorem State.metered_result {α : Type} (call : State → α × State) (s : State) :
    (s.metered call).1 = ((call s.useBattery).1, removed s (call s.useBattery).2) := rfl
@[simp] theorem State.metered_cpu {α : Type} (call : State → α × State) (s : State) :
    (s.metered call).2.cpu = (call s.useBattery).2.cpu := rfl
@[simp] theorem State.metered_loop {α : Type} (call : State → α × State) (s : State) :
    (s.metered call).2.loop = (call s.useBattery).2.loop := rfl
@[simp] theorem State.metered_battery {α : Type} (call : State → α × State) (s : State) :
    (s.metered call).2.battery = (call s.useBattery).2.battery := rfl
@[simp] theorem State.metered_slot {α : Type} (call : State → α × State) (s : State) :
    (s.metered call).2.scheme.slot = (call s.useBattery).2.scheme.slot := rfl

@[simp] theorem State.isActive_num (s : State) : s.isActive.2.num = s.num := rfl
@[simp] theorem State.willBackup_num (s : State) : s.willBackup.2.num = s.num := rfl
@[simp] theorem State.executeInstruction_num (s : State) : s.executeInstruction.num = s.num := rfl
@[simp] theorem State.backup_num (s : State) : s.backup.2.num = s.num := rfl
@[simp] theorem State.restore_num (s : State) : s.restore.2.num = s.num := rfl
@[simp] theorem State.setCur_num (s : State) (p : Period) : (s.setCur p).num = s.num := rfl
@[simp] theorem State.isActive_loop (s : State) : s.isActive.2.loop = s.loop := rfl
@[simp] theorem State.isActive_cpu (s : State) : s.isActive.2.cpu = s.cpu := rfl
@[simp] theorem State.isActive_battery (s : State) : s.isActive.2.battery = s.battery := rfl
@[simp] theorem State.isActive_slot (s : State) : s.isActive.2.scheme.slot = s.scheme.slot := rfl
@[simp] theorem State.willBackup_loop (s : State) : s.willBackup.2.loop = s.loop := rfl
@[simp] theorem State.willBackup_cpu (s : State) : s.willBackup.2.cpu = s.cpu := rfl
@[simp] theorem State.willBackup_battery (s : State) : s.willBackup.2.battery = s.battery := rfl
@[simp] theorem State.willBackup_slot (s : State) : s.willBackup.2.scheme.slot = s.scheme.slot := rfl
@[simp] theorem State.backup_loop (s : State) : s.backup.2.loop = s.loop := rfl
@[simp] theorem State.backup_cpu (s : State) : s.backup.2.cpu = s.cpu := rfl
@[simp] theorem State.restore_loop (s : State) : s.restore.2.loop = s.loop := rfl
@[simp] theorem State.executeInstruction_loop (s : State) : s.executeInstruction.loop = s.loop := rfl
@[simp] theorem State.executeInstruction_cpu (s : State) : s.executeInstruction.cpu = s.cpu := rfl
@[simp] theorem State.executeInstruction_slot (s : State) : s.executeInstruction.scheme.slot = s.scheme.slot := rfl
@[simp] theorem State.backup_slot (s : State) : s.backup.2.scheme.slot = some s.cpu := rfl
@[simp] theorem State.restore_slot (s : State) : s.restore.2.scheme.slot = none := by simp [State.restore, Scheme.restore_eq]
@[simp] theorem State.restore_cpu (s : State) : s.restore.2.cpu = s.scheme.slot.getD s.cpu := by
  simp [State.restore, Scheme.restore_eq]

/-! ### The battery -/

/-- In exact arithmetic a draw leaves what is stored not negative. -/
theorem Battery.draw_stored_nonneg (b : Battery) (asked : Quantity) (h : 0 ≤ b.stored) :
    0 ≤ (b.draw .rational asked).stored := by
  unfold Battery.draw
  split
  · exact h
  · simpa [gives] using (Config.NumType.clamp_rational_mem h asked).2

/-- A request of 0 leaves what is stored, in every number type (spec 48 R202). -/
@[simp] theorem Battery.draw_zero_stored (n : Config.NumType) (b : Battery) : (b.draw n 0).stored = b.stored := by
  simp [draw, gives, Config.NumType.clamp]

theorem State.executeInstruction_battery (s : State) :
    s.executeInstruction.battery = s.battery.draw s.num (s.reply (.executeInstruction s.cpu s.stepCycles)).energy := rfl

theorem State.backup_battery (s : State) :
    s.backup.2.battery = s.battery.draw s.num (s.reply (.backup s.cpu)).energy := rfl

theorem State.restore_battery (s : State) :
    s.restore.2.battery = s.battery.draw s.num (s.reply (.restore s.cpu)).energy := rfl

/-- In exact arithmetic the accepted amount lies between 0 and the offer (spec 49 R206). -/
theorem Battery.accepts_mem (b : Battery) {offered : Quantity} (h : 0 ≤ offered) :
    0 ≤ b.accepts .rational offered ∧ b.accepts .rational offered ≤ offered :=
  Config.NumType.clamp_rational_mem h _

/-- In exact arithmetic a charging rate is not negative (spec 49 R208). -/
theorem Environment.chargingRate_nonneg (e : Environment) (v c : Quantity) : 0 ≤ e.chargingRate .rational v c := by
  unfold chargingRate nonNegative
  simp only [Config.NumType.le_rational, decide_eq_true_eq]
  split
  · assumption
  · exact le_refl _

/-! ### The end of a tick -/

/-- A tick that ends Inactive harvests, and every tick when ALWAYS_HARVEST is set (spec 49 R220). -/
abbrev harvests (s : State) : Prop := s.loop.power = .inactive ∨ s.params.alwaysHarvest = true

/-- What the battery accepts in a tick of `tc` cycles that harvests. -/
def harvested (tc : Nat) (s : State) : Quantity := s.battery.accepts s.num (s.num.mul s.loop.rate (s.num.ofNat tc))

@[simp] theorem harvests_passTime (tc : Nat) (s : State) : harvests (passTime tc s) = harvests s := rfl

@[simp] theorem harvested_passTime (tc n : Nat) (s : State) : harvested tc (passTime n s) = harvested tc s := rfl

/-! The fields after `passTime`. -/

@[simp] theorem passTime_cpu (tc : Nat) (s : State) : (passTime tc s).cpu = s.cpu := rfl
@[simp] theorem passTime_mem (tc : Nat) (s : State) : (passTime tc s).mem = s.mem := rfl
@[simp] theorem passTime_exitFlag (tc : Nat) (s : State) : (passTime tc s).exitFlag = s.exitFlag := rfl
@[simp] theorem passTime_params (tc : Nat) (s : State) : (passTime tc s).params = s.params := rfl
@[simp] theorem passTime_num (tc : Nat) (s : State) : (passTime tc s).num = s.num := rfl
@[simp] theorem passTime_env (tc : Nat) (s : State) : (passTime tc s).env = s.env := rfl
@[simp] theorem passTime_policy (tc : Nat) (s : State) : (passTime tc s).scheme.policy = s.scheme.policy := rfl
@[simp] theorem passTime_memo (tc : Nat) (s : State) : (passTime tc s).scheme.memo = s.scheme.memo := rfl
@[simp] theorem passTime_clockFrequency (tc : Nat) (s : State) : (passTime tc s).scheme.clockFrequency = s.scheme.clockFrequency := rfl
@[simp] theorem passTime_slot (tc : Nat) (s : State) : (passTime tc s).scheme.slot = s.scheme.slot := rfl
@[simp] theorem passTime_capacitor (tc : Nat) (s : State) : (passTime tc s).battery.capacitor = s.battery.capacitor := rfl
@[simp] theorem passTime_power (tc : Nat) (s : State) : (passTime tc s).loop.power = s.loop.power := rfl
@[simp] theorem passTime_first (tc : Nat) (s : State) : (passTime tc s).loop.first = s.loop.first := rfl
@[simp] theorem passTime_elapsed (tc : Nat) (s : State) : (passTime tc s).loop.elapsed = s.loop.elapsed + tc := rfl
@[simp] theorem passTime_time (tc : Nat) (s : State) : (passTime tc s).loop.time = s.loop.time := rfl
@[simp] theorem passTime_noProgress (tc : Nat) (s : State) : (passTime tc s).loop.noProgress = s.loop.noProgress := rfl
@[simp] theorem passTime_finished (tc : Nat) (s : State) : (passTime tc s).loop.finished = s.loop.finished := rfl
@[simp] theorem passTime_cur (tc : Nat) (s : State) : (passTime tc s).loop.cur = s.loop.cur := rfl
@[simp] theorem passTime_nextSample (tc : Nat) (s : State) : (passTime tc s).loop.nextSample = s.loop.nextSample := rfl
@[simp] theorem passTime_voltage (tc : Nat) (s : State) : (passTime tc s).loop.voltage = s.loop.voltage := rfl
@[simp] theorem passTime_rate (tc : Nat) (s : State) : (passTime tc s).loop.rate = s.loop.rate := rfl
@[simp] theorem passTime_energyHarvested (tc : Nat) (s : State) : (passTime tc s).loop.totals.energyHarvested = s.loop.totals.energyHarvested := rfl
@[simp] theorem passTime_battery (tc : Nat) (s : State) : (passTime tc s).battery = s.battery := rfl
@[simp] theorem passTime_finalEnergyStored (tc : Nat) (s : State) :
    (passTime tc s).loop.totals.finalEnergyStored = s.loop.totals.finalEnergyStored := rfl

/-! The fields after `harvest`. -/

@[simp] theorem harvest_cpu (tc : Nat) (s : State) : (harvest tc s).cpu = s.cpu := by
  unfold harvest; split <;> rfl
@[simp] theorem harvest_mem (tc : Nat) (s : State) : (harvest tc s).mem = s.mem := by
  unfold harvest; split <;> rfl
@[simp] theorem harvest_exitFlag (tc : Nat) (s : State) : (harvest tc s).exitFlag = s.exitFlag := by
  unfold harvest; split <;> rfl
@[simp] theorem harvest_params (tc : Nat) (s : State) : (harvest tc s).params = s.params := by
  unfold harvest; split <;> rfl
@[simp] theorem harvest_num (tc : Nat) (s : State) : (harvest tc s).num = s.num := by
  unfold harvest; split <;> rfl
@[simp] theorem harvest_env (tc : Nat) (s : State) : (harvest tc s).env = s.env := by
  unfold harvest; split <;> rfl
@[simp] theorem harvest_policy (tc : Nat) (s : State) : (harvest tc s).scheme.policy = s.scheme.policy := by
  unfold harvest; split <;> rfl
@[simp] theorem harvest_memo (tc : Nat) (s : State) : (harvest tc s).scheme.memo =
    if harvests s then s.memoAfterUse else s.scheme.memo := by
  unfold harvest; split <;> rfl
@[simp] theorem harvest_clockFrequency (tc : Nat) (s : State) : (harvest tc s).scheme.clockFrequency = s.scheme.clockFrequency := by
  unfold harvest; split <;> rfl
@[simp] theorem harvest_slot (tc : Nat) (s : State) : (harvest tc s).scheme.slot = s.scheme.slot := by
  unfold harvest; split <;> rfl
@[simp] theorem harvest_capacitor (tc : Nat) (s : State) : (harvest tc s).battery.capacitor = s.battery.capacitor := by
  unfold harvest; split <;> rfl
@[simp] theorem harvest_power (tc : Nat) (s : State) : (harvest tc s).loop.power = s.loop.power := by
  unfold harvest; split <;> rfl
@[simp] theorem harvest_first (tc : Nat) (s : State) : (harvest tc s).loop.first = s.loop.first := by
  unfold harvest; split <;> rfl
@[simp] theorem harvest_elapsed (tc : Nat) (s : State) : (harvest tc s).loop.elapsed = s.loop.elapsed := by
  unfold harvest; split <;> rfl
@[simp] theorem harvest_time (tc : Nat) (s : State) : (harvest tc s).loop.time = s.loop.time := by
  unfold harvest; split <;> rfl
@[simp] theorem harvest_noProgress (tc : Nat) (s : State) : (harvest tc s).loop.noProgress = s.loop.noProgress := by
  unfold harvest; split <;> rfl
@[simp] theorem harvest_finished (tc : Nat) (s : State) : (harvest tc s).loop.finished = s.loop.finished := by
  unfold harvest; split <;> rfl
@[simp] theorem harvest_cur (tc : Nat) (s : State) : (harvest tc s).loop.cur = s.loop.cur := by
  unfold harvest; split <;> rfl
@[simp] theorem harvest_nextSample (tc : Nat) (s : State) : (harvest tc s).loop.nextSample = s.loop.nextSample := by
  unfold harvest; split <;> rfl
@[simp] theorem harvest_voltage (tc : Nat) (s : State) : (harvest tc s).loop.voltage = s.loop.voltage := by
  unfold harvest; split <;> rfl
@[simp] theorem harvest_rate (tc : Nat) (s : State) : (harvest tc s).loop.rate = s.loop.rate := by
  unfold harvest; split <;> rfl
@[simp] theorem harvest_energyHarvested (tc : Nat) (s : State) : (harvest tc s).loop.totals.energyHarvested = if harvests s then s.num.add s.loop.totals.energyHarvested (harvested tc s) else s.loop.totals.energyHarvested := by
  unfold harvest; split <;> rfl
@[simp] theorem harvest_battery (tc : Nat) (s : State) : (harvest tc s).battery = if harvests s then s.battery.harvest s.num (harvested tc s) else s.battery := by
  unfold harvest; split <;> rfl
@[simp] theorem harvest_finalEnergyStored (tc : Nat) (s : State) :
    (harvest tc s).loop.totals.finalEnergyStored = s.loop.totals.finalEnergyStored := by
  unfold harvest; split <;> rfl

/-! The fields after `clockTime`. -/

@[simp] theorem clockTime_cpu (s : State) : (clockTime s).cpu = s.cpu := rfl
@[simp] theorem clockTime_mem (s : State) : (clockTime s).mem = s.mem := rfl
@[simp] theorem clockTime_exitFlag (s : State) : (clockTime s).exitFlag = s.exitFlag := rfl
@[simp] theorem clockTime_params (s : State) : (clockTime s).params = s.params := rfl
@[simp] theorem clockTime_num (s : State) : (clockTime s).num = s.num := rfl
@[simp] theorem clockTime_env (s : State) : (clockTime s).env = s.env := rfl
@[simp] theorem clockTime_policy (s : State) : (clockTime s).scheme.policy = s.scheme.policy := rfl
@[simp] theorem clockTime_memo (s : State) : (clockTime s).scheme.memo = (s.reply .clockFrequency).memo := rfl
@[simp] theorem clockTime_clockFrequency (s : State) : (clockTime s).scheme.clockFrequency = s.scheme.clockFrequency := rfl
@[simp] theorem clockTime_slot (s : State) : (clockTime s).scheme.slot = s.scheme.slot := rfl
@[simp] theorem clockTime_capacitor (s : State) : (clockTime s).battery.capacitor = s.battery.capacitor := rfl
@[simp] theorem clockTime_power (s : State) : (clockTime s).loop.power = s.loop.power := rfl
@[simp] theorem clockTime_first (s : State) : (clockTime s).loop.first = s.loop.first := rfl
@[simp] theorem clockTime_elapsed (s : State) : (clockTime s).loop.elapsed = s.loop.elapsed := rfl
@[simp] theorem clockTime_time (s : State) : (clockTime s).loop.time = s.num.div (s.num.ofNat s.loop.elapsed) s.scheme.clockFrequency := rfl
@[simp] theorem clockTime_noProgress (s : State) : (clockTime s).loop.noProgress = s.loop.noProgress := rfl
@[simp] theorem clockTime_finished (s : State) : (clockTime s).loop.finished = s.loop.finished := rfl
@[simp] theorem clockTime_cur (s : State) : (clockTime s).loop.cur = s.loop.cur := rfl
@[simp] theorem clockTime_nextSample (s : State) : (clockTime s).loop.nextSample = s.loop.nextSample := rfl
@[simp] theorem clockTime_voltage (s : State) : (clockTime s).loop.voltage = s.loop.voltage := rfl
@[simp] theorem clockTime_rate (s : State) : (clockTime s).loop.rate = s.loop.rate := rfl
@[simp] theorem clockTime_energyHarvested (s : State) : (clockTime s).loop.totals.energyHarvested = s.loop.totals.energyHarvested := rfl
@[simp] theorem clockTime_battery (s : State) : (clockTime s).battery = s.battery := rfl
@[simp] theorem clockTime_finalEnergyStored (s : State) :
    (clockTime s).loop.totals.finalEnergyStored = s.loop.totals.finalEnergyStored := rfl

/-! The fields after `sample`. -/

@[simp] theorem sample_cpu (s : State) : (sample s).cpu = s.cpu := by
  unfold sample; split <;> rfl
@[simp] theorem sample_mem (s : State) : (sample s).mem = s.mem := by
  unfold sample; split <;> rfl
@[simp] theorem sample_exitFlag (s : State) : (sample s).exitFlag = s.exitFlag := by
  unfold sample; split <;> rfl
@[simp] theorem sample_params (s : State) : (sample s).params = s.params := by
  unfold sample; split <;> rfl
@[simp] theorem sample_num (s : State) : (sample s).num = s.num := by
  unfold sample; split <;> rfl
@[simp] theorem sample_env (s : State) : (sample s).env = s.env := by
  unfold sample; split <;> rfl
@[simp] theorem sample_policy (s : State) : (sample s).scheme.policy = s.scheme.policy := by
  unfold sample; split <;> rfl
@[simp] theorem sample_memo (s : State) : (sample s).scheme.memo =
    if s.num.le s.loop.nextSample s.loop.time then s.memoAfterUse else s.scheme.memo := by
  unfold sample; split <;> rfl
@[simp] theorem sample_clockFrequency (s : State) : (sample s).scheme.clockFrequency = s.scheme.clockFrequency := by
  unfold sample; split <;> rfl
@[simp] theorem sample_slot (s : State) : (sample s).scheme.slot = s.scheme.slot := by
  unfold sample; split <;> rfl
@[simp] theorem sample_capacitor (s : State) : (sample s).battery.capacitor = s.battery.capacitor := by
  unfold sample; split <;> rfl
@[simp] theorem sample_power (s : State) : (sample s).loop.power = s.loop.power := by
  unfold sample; split <;> rfl
@[simp] theorem sample_first (s : State) : (sample s).loop.first = s.loop.first := by
  unfold sample; split <;> rfl
@[simp] theorem sample_elapsed (s : State) : (sample s).loop.elapsed = s.loop.elapsed := by
  unfold sample; split <;> rfl
@[simp] theorem sample_time (s : State) : (sample s).loop.time = s.loop.time := by
  unfold sample; split <;> rfl
@[simp] theorem sample_noProgress (s : State) : (sample s).loop.noProgress = s.loop.noProgress := by
  unfold sample; split <;> rfl
@[simp] theorem sample_finished (s : State) : (sample s).loop.finished = s.loop.finished := by
  unfold sample; split <;> rfl
@[simp] theorem sample_cur (s : State) : (sample s).loop.cur = s.loop.cur := by
  unfold sample; split <;> rfl
@[simp] theorem sample_nextSample (s : State) : (sample s).loop.nextSample = if s.num.le s.loop.nextSample s.loop.time then s.num.add s.loop.nextSample s.env.samplePeriod else s.loop.nextSample := by
  unfold sample; split <;> rfl
@[simp] theorem sample_voltage (s : State) : (sample s).loop.voltage = if s.num.le s.loop.nextSample s.loop.time then s.env.getVoltage s.loop.time else s.loop.voltage := by
  unfold sample; split <;> rfl
@[simp] theorem sample_rate (s : State) : (sample s).loop.rate = if s.num.le s.loop.nextSample s.loop.time then
      s.env.chargingRate s.num (s.env.getVoltage s.loop.time) s.battery.capacitance else s.loop.rate := by
  unfold sample; split <;> rfl
@[simp] theorem sample_energyHarvested (s : State) : (sample s).loop.totals.energyHarvested = s.loop.totals.energyHarvested := by
  unfold sample; split <;> rfl
@[simp] theorem sample_battery (s : State) : (sample s).battery = s.battery := by
  unfold sample; split <;> rfl
@[simp] theorem sample_finalEnergyStored (s : State) :
    (sample s).loop.totals.finalEnergyStored = s.loop.totals.finalEnergyStored := by
  unfold sample; split <;> rfl

/-! The fields after `finish`. -/

@[simp] theorem finish_cpu (s : State) : (finish s).cpu = s.cpu := by
  unfold finish; split <;> rfl
@[simp] theorem finish_mem (s : State) : (finish s).mem = s.mem := by
  unfold finish; split <;> rfl
@[simp] theorem finish_exitFlag (s : State) : (finish s).exitFlag = s.exitFlag := by
  unfold finish; split <;> rfl
@[simp] theorem finish_params (s : State) : (finish s).params = s.params := by
  unfold finish; split <;> rfl
@[simp] theorem finish_env (s : State) : (finish s).env = s.env := by
  unfold finish; split <;> rfl
@[simp] theorem finish_policy (s : State) : (finish s).scheme.policy = s.scheme.policy := by
  unfold finish; split <;> rfl
@[simp] theorem finish_memo (s : State) : (finish s).scheme.memo = if s.exitFlag then s.memoAfterUse else s.scheme.memo := by
  unfold finish; split <;> rfl
@[simp] theorem finish_clockFrequency (s : State) : (finish s).scheme.clockFrequency = s.scheme.clockFrequency := by
  unfold finish; split <;> rfl
@[simp] theorem finish_slot (s : State) : (finish s).scheme.slot = if s.exitFlag then none else s.scheme.slot := by
  unfold finish; split <;> rfl
@[simp] theorem finish_capacitor (s : State) : (finish s).battery.capacitor = s.battery.capacitor := by
  unfold finish; split <;> rfl
@[simp] theorem finish_power (s : State) : (finish s).loop.power = s.loop.power := by
  unfold finish; split <;> rfl
@[simp] theorem finish_first (s : State) : (finish s).loop.first = s.loop.first := by
  unfold finish; split <;> rfl
@[simp] theorem finish_elapsed (s : State) : (finish s).loop.elapsed = s.loop.elapsed := by
  unfold finish; split <;> rfl
@[simp] theorem finish_time (s : State) : (finish s).loop.time = s.loop.time := by
  unfold finish; split <;> rfl
@[simp] theorem finish_noProgress (s : State) : (finish s).loop.noProgress = s.loop.noProgress := by
  unfold finish; split <;> rfl
@[simp] theorem finish_finished (s : State) : (finish s).loop.finished = s.loop.finished := by
  unfold finish; split <;> rfl
@[simp] theorem finish_cur (s : State) : (finish s).loop.cur = if s.exitFlag then (s.loop.cur.total s.num).estimated none else s.loop.cur := by
  unfold finish; split <;> rfl
@[simp] theorem finish_nextSample (s : State) : (finish s).loop.nextSample = s.loop.nextSample := by
  unfold finish; split <;> rfl
@[simp] theorem finish_voltage (s : State) : (finish s).loop.voltage = s.loop.voltage := by
  unfold finish; split <;> rfl
@[simp] theorem finish_rate (s : State) : (finish s).loop.rate = s.loop.rate := by
  unfold finish; split <;> rfl
@[simp] theorem finish_energyHarvested (s : State) : (finish s).loop.totals.energyHarvested = s.loop.totals.energyHarvested := by
  unfold finish; split <;> rfl
@[simp] theorem finish_battery (s : State) : (finish s).battery = s.battery := by
  unfold finish; split <;> rfl
@[simp] theorem finish_finalEnergyStored (s : State) : (finish s).loop.totals.finalEnergyStored =
    if s.exitFlag then some s.battery.stored else s.loop.totals.finalEnergyStored := by
  unfold finish; split <;> rfl

/-! The fields after `closeTick`. -/

theorem closeTick_cpu (tc : Nat) (s : State) : (closeTick tc s).cpu = s.cpu := by
  simp [closeTick]
theorem closeTick_mem (tc : Nat) (s : State) : (closeTick tc s).mem = s.mem := by
  simp [closeTick]
theorem closeTick_exitFlag (tc : Nat) (s : State) : (closeTick tc s).exitFlag = s.exitFlag := by
  simp [closeTick]
theorem closeTick_params (tc : Nat) (s : State) : (closeTick tc s).params = s.params := by
  simp [closeTick]
theorem closeTick_env (tc : Nat) (s : State) : (closeTick tc s).env = s.env := by
  simp [closeTick]
theorem closeTick_policy (tc : Nat) (s : State) : (closeTick tc s).scheme.policy = s.scheme.policy := by
  simp [closeTick]
theorem closeTick_clockFrequency (tc : Nat) (s : State) : (closeTick tc s).scheme.clockFrequency = s.scheme.clockFrequency := by
  simp [closeTick]
theorem closeTick_slot (tc : Nat) (s : State) : (closeTick tc s).scheme.slot = if s.exitFlag then none else s.scheme.slot := by
  simp [closeTick]
theorem closeTick_capacitor (tc : Nat) (s : State) : (closeTick tc s).battery.capacitor = s.battery.capacitor := by
  simp [closeTick, -harvest_battery]
theorem closeTick_power (tc : Nat) (s : State) : (closeTick tc s).loop.power = s.loop.power := by
  simp [closeTick]
theorem closeTick_first (tc : Nat) (s : State) : (closeTick tc s).loop.first = s.loop.first := by
  simp [closeTick]
theorem closeTick_elapsed (tc : Nat) (s : State) : (closeTick tc s).loop.elapsed = s.loop.elapsed + tc := by
  simp [closeTick]
theorem closeTick_time (tc : Nat) (s : State) : (closeTick tc s).loop.time = s.num.div (s.num.ofNat (s.loop.elapsed + tc)) s.scheme.clockFrequency := by
  simp [closeTick]
theorem closeTick_noProgress (tc : Nat) (s : State) : (closeTick tc s).loop.noProgress = s.loop.noProgress := by
  simp [closeTick]
theorem closeTick_finished (tc : Nat) (s : State) : (closeTick tc s).loop.finished = s.loop.finished := by
  simp [closeTick]
theorem closeTick_cur (tc : Nat) (s : State) : (closeTick tc s).loop.cur = if s.exitFlag then (s.loop.cur.total s.num).estimated none else s.loop.cur := by
  simp [closeTick]
theorem closeTick_nextSample (tc : Nat) (s : State) : (closeTick tc s).loop.nextSample = if s.num.le s.loop.nextSample (closeTick tc s).loop.time then
      s.num.add s.loop.nextSample s.env.samplePeriod else s.loop.nextSample := by
  simp [closeTick]
theorem closeTick_voltage (tc : Nat) (s : State) : (closeTick tc s).loop.voltage = if s.num.le s.loop.nextSample (closeTick tc s).loop.time then
      s.env.getVoltage (closeTick tc s).loop.time else s.loop.voltage := by
  simp [closeTick]
theorem closeTick_rate (tc : Nat) (s : State) : (closeTick tc s).loop.rate = if s.num.le s.loop.nextSample (closeTick tc s).loop.time then
      s.env.chargingRate s.num (closeTick tc s).loop.voltage (closeTick tc s).battery.capacitance else s.loop.rate := by
  simp +contextual [closeTick]
theorem closeTick_energyHarvested (tc : Nat) (s : State) : (closeTick tc s).loop.totals.energyHarvested = if harvests s then s.num.add s.loop.totals.energyHarvested (harvested tc s) else s.loop.totals.energyHarvested := by
  simp [closeTick]; rfl
theorem closeTick_battery (tc : Nat) (s : State) : (closeTick tc s).battery = if harvests s then s.battery.harvest s.num (harvested tc s) else s.battery := by
  simp [closeTick]; rfl
theorem closeTick_finalEnergyStored (tc : Nat) (s : State) : (closeTick tc s).loop.totals.finalEnergyStored =
    if s.exitFlag then some (closeTick tc s).battery.stored else s.loop.totals.finalEnergyStored := by
  simp [closeTick]

theorem memoAfterUse_eq (s : State) : s.memoAfterUse = s.memoAfterUseOf s.battery s.scheme.memo := by
  unfold State.memoAfterUse State.memoAfterUseOf State.reply State.owned
  cases s.params.handle <;> simp

@[simp] theorem memoAtEnd_setCur (z t : State) (p : Period) : (z.setCur p).memoAtEnd t = z.memoAtEnd t := rfl

/-- The private state at the end of a tick. -/
theorem closeTick_memo (tc : Nat) (s : State) : (closeTick tc s).scheme.memo = s.memoAtEnd (closeTick tc s) := by
  unfold State.memoAtEnd
  simp only [closeTick_battery, closeTick_power, closeTick_exitFlag, closeTick_time]
  simp [closeTick, memoAfterUse_eq, State.memoAfterUseOf, State.reply, State.owned]
  rfl

/-! ### The accounting of an active tick -/

theorem Untouched.accountInstr {s : State} : Untouched s (accountInstr s) :=
  .trans (.metered fun _ => .executeInstruction) .setCur

@[simp] theorem accountInstr_cpu (s : State) : (accountInstr s).cpu = s.cpu := rfl
@[simp] theorem accountInstr_slot (s : State) : (accountInstr s).scheme.slot = s.scheme.slot := rfl
@[simp] theorem accountInstr_battery (s : State) : (accountInstr s).battery = s.useBattery.executeInstruction.battery := rfl

theorem Untouched.accountBackup {tc : Nat} {s : State} : Untouched s (accountBackup tc s).1 :=
  .trans (.metered fun _ => .backup) .setCur

@[simp] theorem accountBackup_cpu (tc : Nat) (s : State) : (accountBackup tc s).1.cpu = s.cpu := rfl
@[simp] theorem accountBackup_slot (tc : Nat) (s : State) : (accountBackup tc s).1.scheme.slot = some s.cpu := rfl
@[simp] theorem accountBackup_battery (tc : Nat) (s : State) :
    (accountBackup tc s).1.battery = s.useBattery.backup.2.battery := rfl

/-- All that the accounting of an active tick can do: the instruction's own, and after it a backup or none. -/
theorem retire_eq (tc : Nat) (s : State) :
    ((accountInstr s).willBackup.1 = false ∧ retire tc s = ((accountInstr s).willBackup.2, tc + s.stepCycles)) ∨
    ((accountInstr s).willBackup.1 = true ∧
      retire tc s = ((accountBackup (tc + s.stepCycles) (accountInstr s).willBackup.2).1,
        tc + s.stepCycles + (accountInstr s).willBackup.2.useBattery.backup.1)) := by
  unfold retire
  cases h : (accountInstr s).willBackup.1
  · left; simp [h]
  · right; simp [h, accountBackup]

theorem Untouched.retire {tc : Nat} {s : State} : Untouched s (retire tc s).1 := by
  have hw : Untouched s (Machine.accountInstr s).willBackup.2 := Untouched.accountInstr.trans .willBackup
  rcases retire_eq tc s with ⟨-, h⟩ | ⟨-, h⟩ <;> rw [h]
  · exact hw
  · exact hw.trans .accountBackup

theorem retire_cpu (tc : Nat) (s : State) : (retire tc s).1.cpu = s.cpu := by
  rcases retire_eq tc s with ⟨-, h⟩ | ⟨-, h⟩ <;> simp [h]

theorem retire_slot (tc : Nat) (s : State) :
    (retire tc s).1.scheme.slot = if (accountInstr s).willBackup.1 then some s.cpu else s.scheme.slot := by
  rcases retire_eq tc s with ⟨hb, h⟩ | ⟨hb, h⟩ <;> simp [h, hb]

/-- The loop state but for its current period is untouched by the accounting. -/
theorem retire_loop (tc : Nat) (s : State) :
    (retire tc s).1.loop = { s.loop with cur := (retire tc s).1.loop.cur } := by
  rcases retire_eq tc s with ⟨-, h⟩ | ⟨-, h⟩ <;> rw [h] <;> rfl

/-- The backups of a period after the accounting of an active tick. -/
theorem retire_backups (tc : Nat) (s : State) :
    (retire tc s).1.loop.cur.backups = s.loop.cur.backups + (if (accountInstr s).willBackup.1 then 1 else 0) := by
  rcases retire_eq tc s with ⟨hb, h⟩ | ⟨hb, h⟩ <;> rw [h, hb] <;> rfl

theorem retire_cycleStart (tc : Nat) (s : State) : (retire tc s).1.loop.cur.cycleStart = s.loop.cur.cycleStart := by
  rcases retire_eq tc s with ⟨-, h⟩ | ⟨-, h⟩ <;> rw [h] <;> rfl

/-! ### Finalization -/

@[simp] theorem Period.total_energies (n : Config.NumType) (p : Period) (e : Option Quantity) :
    ((p.total n).estimated e).energyInstructions = p.energyInstructions ∧
    ((p.total n).estimated e).energyBackup = p.energyBackup ∧
    ((p.total n).estimated e).energyRestore = p.energyRestore := ⟨rfl, rfl, rfl⟩

@[simp] theorem Period.total_counts (n : Config.NumType) (p : Period) (e : Option Quantity) :
    ((p.total n).estimated e).cycleStart = p.cycleStart ∧
    ((p.total n).estimated e).backups = p.backups ∧
    ((p.total n).estimated e).instructionCycles = p.instructionCycles ∧
    ((p.total n).estimated e).backupCycles = p.backupCycles ∧
    ((p.total n).estimated e).restoreCycles = p.restoreCycles := ⟨rfl, rfl, rfl, rfl, rfl⟩

theorem Untouched.finalizeEstimated {s : State} : Untouched s (finalizeEstimated s) := ⟨rfl, rfl, rfl, rfl, rfl, rfl, rfl, rfl, rfl⟩

@[simp] theorem finalizeEstimated_cpu (s : State) : (finalizeEstimated s).cpu = s.cpu := rfl
@[simp] theorem finalizeEstimated_battery (s : State) : (finalizeEstimated s).battery = s.battery := rfl
@[simp] theorem finalizeEstimated_slot (s : State) : (finalizeEstimated s).scheme.slot = s.scheme.slot := rfl

/-- The loop state but for its current period is untouched by a finalization. -/
theorem finalizeEstimated_loop (s : State) :
    (finalizeEstimated s).loop = { s.loop with
      cur := (s.loop.cur.total s.num).estimated (some (s.estimateProgress (s.loop.cur.total s.num)).1) } := rfl

/-! ### The edges -/

theorem Untouched.reactivate {s : State} : Untouched s (reactivate s).1 :=
  .trans (.metered fun _ => .restore) ⟨rfl, rfl, rfl, rfl, rfl, rfl, rfl, rfl, rfl⟩

theorem Untouched.activate {s : State} : Untouched s (activate s).1 := by
  unfold Machine.activate
  split
  · exact ⟨rfl, rfl, rfl, rfl, rfl, rfl, rfl, rfl, rfl⟩
  · exact .trans .reactivate ⟨rfl, rfl, rfl, rfl, rfl, rfl, rfl, rfl, rfl⟩

/-- What a completed deactivation leaves (spec 49 R217). -/
theorem deactivate_eq_ok {s r : State} (h : deactivate s = .ok r) :
    ∃ n, r = (finalizeEstimated (s.setNoProgress n)).setPower .inactive ∧
      ((s.loop.cur.backups = 0 ∧ n = s.loop.noProgress + 1 ∧ n < Config.noProgressLimit) ∨
        (s.loop.cur.backups ≠ 0 ∧ n = 0)) := by
  unfold deactivate at h
  split at h
  · simp at h
  · rename_i n hc
    simp only [Except.ok.injEq] at h
    refine ⟨n, h.symm, ?_⟩
    unfold checkProgress at hc
    split at hc
    · rename_i hb
      split at hc
      · simp at hc
      · simp only [Except.ok.injEq] at hc; exact .inl ⟨hb, hc.symm, by omega⟩
    · rename_i hb; simp only [Except.ok.injEq] at hc; exact .inr ⟨hb, hc.symm⟩

/-- The only fatal condition of a deactivation (spec 49 R217). -/
theorem deactivate_eq_error {s : State} {f : Fault} (h : deactivate s = .error f) :
    s.loop.cur.backups = 0 ∧ Config.noProgressLimit ≤ s.loop.noProgress + 1 ∧
      f = .noForwardProgress s.loop.periods.length s.loop.elapsed := by
  unfold deactivate at h
  split at h
  · rename_i f' hc
    simp only [Except.error.injEq] at h; subst h
    unfold checkProgress at hc
    split at hc
    · rename_i hb
      split at hc
      · rename_i hl; simp only [Except.error.injEq] at hc; exact ⟨hb, hl, hc.symm⟩
      · simp at hc
    · simp at hc
  · simp at h

theorem Untouched.deactivate {s r : State} (h : deactivate s = .ok r) : Untouched s r := by
  obtain ⟨n, rfl, -⟩ := deactivate_eq_ok h
  exact ⟨rfl, rfl, rfl, rfl, rfl, rfl, rfl, rfl, rfl⟩

/-- What a transition can do (spec 49 R215 to R217). -/
theorem transition_eq_ok {s r : State} {c : Nat} (h : transition s = .ok (r, c)) :
    (s.loop.power = .inactive ∧ s.isActive.1 = true ∧ (r, c) = activate s.isActive.2) ∨
    (s.loop.power = .inactive ∧ s.isActive.1 = false ∧ r = s.isActive.2 ∧ c = 0) ∨
    (s.loop.power = .active ∧ s.isActive.1 = true ∧ r = s.isActive.2 ∧ c = 0) ∨
    (s.loop.power = .active ∧ s.isActive.1 = false ∧ deactivate s.isActive.2 = .ok r ∧ c = 0) := by
  unfold transition at h
  dsimp only at h
  split at h
  · rename_i h1 h2; exact .inl ⟨h1, h2, by simpa using h.symm⟩
  · rename_i h1 h2; simp at h; exact .inr (.inl ⟨h1, h2, h.1.symm, h.2.symm⟩)
  · rename_i h1 h2; simp at h; exact .inr (.inr (.inl ⟨h1, h2, h.1.symm, h.2.symm⟩))
  · rename_i h1 h2
    split at h
    · simp at h
    · rename_i s' h3; simp at h; obtain ⟨rfl, rfl⟩ := h; exact .inr (.inr (.inr ⟨h1, h2, h3, rfl⟩))

/-- The only fatal condition of a transition (spec 49 R217). -/
theorem transition_eq_error {s : State} {f : Fault} (h : transition s = .error f) :
    s.loop.power = .active ∧ s.isActive.1 = false ∧ s.loop.cur.backups = 0 ∧
      Config.noProgressLimit ≤ s.loop.noProgress + 1 ∧
      f = .noForwardProgress s.loop.periods.length s.loop.elapsed := by
  unfold transition at h
  dsimp only at h
  split at h
  · simp at h
  · simp at h
  · simp at h
  · rename_i h1 h2
    split at h
    · rename_i f' hd
      simp only [Except.error.injEq] at h; subst h
      exact ⟨h1, h2, deactivate_eq_error (s := s.isActive.2) hd⟩
    · simp at h

theorem Untouched.transition {s r : State} {c : Nat} (h : transition s = .ok (r, c)) : Untouched s r := by
  rcases transition_eq_ok h with ⟨-, -, h⟩ | ⟨-, -, rfl, -⟩ | ⟨-, -, rfl, -⟩ | ⟨-, -, h, -⟩
  · rw [show r = (Machine.activate s.isActive.2).1 from congrArg Prod.fst h]
    exact .trans .isActive .activate
  · exact .isActive
  · exact .isActive
  · exact .trans .isActive (.deactivate h)

/-! ### One step of the machine -/

/-- All that a step of the machine can do: stay, when the run is over; else the transition, and then one CPU step with its
accounting, or an idle tick. -/
theorem step_eq_next {s t : State} (h : step s = .next t) :
    (s.exitFlag = true ∧ t = s) ∨
    (s.exitFlag = false ∧ ∃ r c, transition s = .ok (r, c) ∧
      ((r.loop.power = .active ∧ ∃ u, cpuStep r = .next u ∧ t = closeTick (retire c u).2 (retire c u).1) ∨
        (r.loop.power = .inactive ∧ t = closeTick (c + s.params.idleTickCycles) r))) := by
  unfold step loopStep at h
  split at h
  · rename_i he; simp at h; exact .inl ⟨he, h.symm⟩
  · rename_i he
    refine .inr ⟨by simpa using he, ?_⟩
    unfold tick at h
    obtain ⟨⟨r, c⟩, hr, h⟩ := orFault_eq_next.mp h
    refine ⟨r, c, hr, ?_⟩
    dsimp only at h
    split at h
    · rename_i hp
      obtain ⟨u, hu, h⟩ := andThen_eq_next.mp h
      simp at h
      exact .inl ⟨hp, u, hu, h.symm⟩
    · rename_i hp; simp at h; exact .inr ⟨hp, h.symm⟩

end Sys2Proof.Machine
end

