-- ==== Sys2Proof/Laws/PerInstr.lean ====
section
/-! SUPPORT. What is said of each instruction as syntax, one lemma per constructor: the family EncodedWidth. -/

namespace Sys2Proof.Laws

open Sys2Proof

/-- A halfword below 0xE800 is a whole instruction (spec 30 R66). -/
theorem isWide_of_lt {n : Nat} (h : n < 0xE800) : isWide (BitVec.ofNat 16 n) = false := by
  have : n % 2 ^ 16 / 2 ^ 11 % 2 ^ 5 < 29 := by omega
  simpa [isWide, field] using this

/-- A halfword from 0xE800 on is the first of two (spec 30 R66). -/
theorem isWide_of_ge {n : Nat} (h : 0xE800 ≤ n) (h' : n < 0x10000) : isWide (BitVec.ofNat 16 n) = true := by
  have : 29 ≤ n % 2 ^ 16 / 2 ^ 11 % 2 ^ 5 := by omega
  simpa [isWide, field] using this

/-- A condition's number is below 14 (spec 30 R72). -/
theorem Cond.toNat_lt (c : Cond) : c.toNat < 14 := by cases c <;> decide

/-- The encoder gives a second halfword exactly to the instructions whose first halfword announces one (spec 30 R66). -/
def EncodedWidth.Statement (i : Instr) : Prop := (encode i).2.isSome = isWide (encode i).1

theorem EncodedWidth.lslsImm (rd : LowReg) (rm : LowReg) (imm5 : BitVec 5) : Statement (.lslsImm rd rm imm5) := by
  have h0 := rd.isLt
  have h1 := rm.isLt
  have h2 := imm5.isLt
  exact (isWide_of_lt (by omega)).symm

theorem EncodedWidth.lsrsImm (rd : LowReg) (rm : LowReg) (imm5 : BitVec 5) : Statement (.lsrsImm rd rm imm5) := by
  have h0 := rd.isLt
  have h1 := rm.isLt
  have h2 := imm5.isLt
  exact (isWide_of_lt (by omega)).symm

theorem EncodedWidth.asrsImm (rd : LowReg) (rm : LowReg) (imm5 : BitVec 5) : Statement (.asrsImm rd rm imm5) := by
  have h0 := rd.isLt
  have h1 := rm.isLt
  have h2 := imm5.isLt
  exact (isWide_of_lt (by omega)).symm

theorem EncodedWidth.addsReg (rd : LowReg) (rn : LowReg) (rm : LowReg) : Statement (.addsReg rd rn rm) := by
  have h0 := rd.isLt
  have h1 := rn.isLt
  have h2 := rm.isLt
  exact (isWide_of_lt (by omega)).symm

theorem EncodedWidth.subsReg (rd : LowReg) (rn : LowReg) (rm : LowReg) : Statement (.subsReg rd rn rm) := by
  have h0 := rd.isLt
  have h1 := rn.isLt
  have h2 := rm.isLt
  exact (isWide_of_lt (by omega)).symm

theorem EncodedWidth.addsImm3 (rd : LowReg) (rn : LowReg) (imm3 : BitVec 3) : Statement (.addsImm3 rd rn imm3) := by
  have h0 := rd.isLt
  have h1 := rn.isLt
  have h2 := imm3.isLt
  exact (isWide_of_lt (by omega)).symm

theorem EncodedWidth.subsImm3 (rd : LowReg) (rn : LowReg) (imm3 : BitVec 3) : Statement (.subsImm3 rd rn imm3) := by
  have h0 := rd.isLt
  have h1 := rn.isLt
  have h2 := imm3.isLt
  exact (isWide_of_lt (by omega)).symm

theorem EncodedWidth.movsImm (rd : LowReg) (imm8 : BitVec 8) : Statement (.movsImm rd imm8) := by
  have h0 := rd.isLt
  have h1 := imm8.isLt
  exact (isWide_of_lt (by omega)).symm

theorem EncodedWidth.cmpImm (rn : LowReg) (imm8 : BitVec 8) : Statement (.cmpImm rn imm8) := by
  have h0 := rn.isLt
  have h1 := imm8.isLt
  exact (isWide_of_lt (by omega)).symm

theorem EncodedWidth.addsImm8 (rdn : LowReg) (imm8 : BitVec 8) : Statement (.addsImm8 rdn imm8) := by
  have h0 := rdn.isLt
  have h1 := imm8.isLt
  exact (isWide_of_lt (by omega)).symm

theorem EncodedWidth.subsImm8 (rdn : LowReg) (imm8 : BitVec 8) : Statement (.subsImm8 rdn imm8) := by
  have h0 := rdn.isLt
  have h1 := imm8.isLt
  exact (isWide_of_lt (by omega)).symm

theorem EncodedWidth.ands (rdn : LowReg) (rm : LowReg) : Statement (.ands rdn rm) := by
  have h0 := rdn.isLt
  have h1 := rm.isLt
  exact (isWide_of_lt (by omega)).symm

theorem EncodedWidth.eors (rdn : LowReg) (rm : LowReg) : Statement (.eors rdn rm) := by
  have h0 := rdn.isLt
  have h1 := rm.isLt
  exact (isWide_of_lt (by omega)).symm

theorem EncodedWidth.lslsReg (rdn : LowReg) (rm : LowReg) : Statement (.lslsReg rdn rm) := by
  have h0 := rdn.isLt
  have h1 := rm.isLt
  exact (isWide_of_lt (by omega)).symm

theorem EncodedWidth.lsrsReg (rdn : LowReg) (rm : LowReg) : Statement (.lsrsReg rdn rm) := by
  have h0 := rdn.isLt
  have h1 := rm.isLt
  exact (isWide_of_lt (by omega)).symm

theorem EncodedWidth.asrsReg (rdn : LowReg) (rm : LowReg) : Statement (.asrsReg rdn rm) := by
  have h0 := rdn.isLt
  have h1 := rm.isLt
  exact (isWide_of_lt (by omega)).symm

theorem EncodedWidth.adcs (rdn : LowReg) (rm : LowReg) : Statement (.adcs rdn rm) := by
  have h0 := rdn.isLt
  have h1 := rm.isLt
  exact (isWide_of_lt (by omega)).symm

theorem EncodedWidth.sbcs (rdn : LowReg) (rm : LowReg) : Statement (.sbcs rdn rm) := by
  have h0 := rdn.isLt
  have h1 := rm.isLt
  exact (isWide_of_lt (by omega)).symm

theorem EncodedWidth.rors (rdn : LowReg) (rm : LowReg) : Statement (.rors rdn rm) := by
  have h0 := rdn.isLt
  have h1 := rm.isLt
  exact (isWide_of_lt (by omega)).symm

theorem EncodedWidth.tst (rn : LowReg) (rm : LowReg) : Statement (.tst rn rm) := by
  have h0 := rn.isLt
  have h1 := rm.isLt
  exact (isWide_of_lt (by omega)).symm

theorem EncodedWidth.rsbs (rd : LowReg) (rn : LowReg) : Statement (.rsbs rd rn) := by
  have h0 := rd.isLt
  have h1 := rn.isLt
  exact (isWide_of_lt (by omega)).symm

theorem EncodedWidth.cmpReg (rn : LowReg) (rm : LowReg) : Statement (.cmpReg rn rm) := by
  have h0 := rn.isLt
  have h1 := rm.isLt
  exact (isWide_of_lt (by omega)).symm

theorem EncodedWidth.cmn (rn : LowReg) (rm : LowReg) : Statement (.cmn rn rm) := by
  have h0 := rn.isLt
  have h1 := rm.isLt
  exact (isWide_of_lt (by omega)).symm

theorem EncodedWidth.orrs (rdn : LowReg) (rm : LowReg) : Statement (.orrs rdn rm) := by
  have h0 := rdn.isLt
  have h1 := rm.isLt
  exact (isWide_of_lt (by omega)).symm

theorem EncodedWidth.muls (rdm : LowReg) (rn : LowReg) : Statement (.muls rdm rn) := by
  have h0 := rdm.isLt
  have h1 := rn.isLt
  exact (isWide_of_lt (by omega)).symm

theorem EncodedWidth.bics (rdn : LowReg) (rm : LowReg) : Statement (.bics rdn rm) := by
  have h0 := rdn.isLt
  have h1 := rm.isLt
  exact (isWide_of_lt (by omega)).symm

theorem EncodedWidth.mvns (rd : LowReg) (rm : LowReg) : Statement (.mvns rd rm) := by
  have h0 := rd.isLt
  have h1 := rm.isLt
  exact (isWide_of_lt (by omega)).symm

theorem EncodedWidth.addHi (rdn : Reg) (rm : Reg) : Statement (.addHi rdn rm) := by
  have h0 := rdn.isLt
  have h1 := rm.isLt
  exact (isWide_of_lt (by omega)).symm

theorem EncodedWidth.cmpHi (rn : Reg) (rm : Reg) : Statement (.cmpHi rn rm) := by
  have h0 := rn.isLt
  have h1 := rm.isLt
  exact (isWide_of_lt (by omega)).symm

theorem EncodedWidth.movHi (rd : Reg) (rm : Reg) : Statement (.movHi rd rm) := by
  have h0 := rd.isLt
  have h1 := rm.isLt
  exact (isWide_of_lt (by omega)).symm

theorem EncodedWidth.ldrLit (rt : LowReg) (imm8 : BitVec 8) : Statement (.ldrLit rt imm8) := by
  have h0 := rt.isLt
  have h1 := imm8.isLt
  exact (isWide_of_lt (by omega)).symm

theorem EncodedWidth.strReg (rt : LowReg) (rn : LowReg) (rm : LowReg) : Statement (.strReg rt rn rm) := by
  have h0 := rt.isLt
  have h1 := rn.isLt
  have h2 := rm.isLt
  exact (isWide_of_lt (by omega)).symm

theorem EncodedWidth.strhReg (rt : LowReg) (rn : LowReg) (rm : LowReg) : Statement (.strhReg rt rn rm) := by
  have h0 := rt.isLt
  have h1 := rn.isLt
  have h2 := rm.isLt
  exact (isWide_of_lt (by omega)).symm

theorem EncodedWidth.strbReg (rt : LowReg) (rn : LowReg) (rm : LowReg) : Statement (.strbReg rt rn rm) := by
  have h0 := rt.isLt
  have h1 := rn.isLt
  have h2 := rm.isLt
  exact (isWide_of_lt (by omega)).symm

theorem EncodedWidth.ldrsbReg (rt : LowReg) (rn : LowReg) (rm : LowReg) : Statement (.ldrsbReg rt rn rm) := by
  have h0 := rt.isLt
  have h1 := rn.isLt
  have h2 := rm.isLt
  exact (isWide_of_lt (by omega)).symm

theorem EncodedWidth.ldrReg (rt : LowReg) (rn : LowReg) (rm : LowReg) : Statement (.ldrReg rt rn rm) := by
  have h0 := rt.isLt
  have h1 := rn.isLt
  have h2 := rm.isLt
  exact (isWide_of_lt (by omega)).symm

theorem EncodedWidth.ldrhReg (rt : LowReg) (rn : LowReg) (rm : LowReg) : Statement (.ldrhReg rt rn rm) := by
  have h0 := rt.isLt
  have h1 := rn.isLt
  have h2 := rm.isLt
  exact (isWide_of_lt (by omega)).symm

theorem EncodedWidth.ldrbReg (rt : LowReg) (rn : LowReg) (rm : LowReg) : Statement (.ldrbReg rt rn rm) := by
  have h0 := rt.isLt
  have h1 := rn.isLt
  have h2 := rm.isLt
  exact (isWide_of_lt (by omega)).symm

theorem EncodedWidth.ldrshReg (rt : LowReg) (rn : LowReg) (rm : LowReg) : Statement (.ldrshReg rt rn rm) := by
  have h0 := rt.isLt
  have h1 := rn.isLt
  have h2 := rm.isLt
  exact (isWide_of_lt (by omega)).symm

theorem EncodedWidth.strImm (rt : LowReg) (rn : LowReg) (imm5 : BitVec 5) : Statement (.strImm rt rn imm5) := by
  have h0 := rt.isLt
  have h1 := rn.isLt
  have h2 := imm5.isLt
  exact (isWide_of_lt (by omega)).symm

theorem EncodedWidth.ldrImm (rt : LowReg) (rn : LowReg) (imm5 : BitVec 5) : Statement (.ldrImm rt rn imm5) := by
  have h0 := rt.isLt
  have h1 := rn.isLt
  have h2 := imm5.isLt
  exact (isWide_of_lt (by omega)).symm

theorem EncodedWidth.strbImm (rt : LowReg) (rn : LowReg) (imm5 : BitVec 5) : Statement (.strbImm rt rn imm5) := by
  have h0 := rt.isLt
  have h1 := rn.isLt
  have h2 := imm5.isLt
  exact (isWide_of_lt (by omega)).symm

theorem EncodedWidth.ldrbImm (rt : LowReg) (rn : LowReg) (imm5 : BitVec 5) : Statement (.ldrbImm rt rn imm5) := by
  have h0 := rt.isLt
  have h1 := rn.isLt
  have h2 := imm5.isLt
  exact (isWide_of_lt (by omega)).symm

theorem EncodedWidth.strhImm (rt : LowReg) (rn : LowReg) (imm5 : BitVec 5) : Statement (.strhImm rt rn imm5) := by
  have h0 := rt.isLt
  have h1 := rn.isLt
  have h2 := imm5.isLt
  exact (isWide_of_lt (by omega)).symm

theorem EncodedWidth.ldrhImm (rt : LowReg) (rn : LowReg) (imm5 : BitVec 5) : Statement (.ldrhImm rt rn imm5) := by
  have h0 := rt.isLt
  have h1 := rn.isLt
  have h2 := imm5.isLt
  exact (isWide_of_lt (by omega)).symm

theorem EncodedWidth.strSp (rt : LowReg) (imm8 : BitVec 8) : Statement (.strSp rt imm8) := by
  have h0 := rt.isLt
  have h1 := imm8.isLt
  exact (isWide_of_lt (by omega)).symm

theorem EncodedWidth.ldrSp (rt : LowReg) (imm8 : BitVec 8) : Statement (.ldrSp rt imm8) := by
  have h0 := rt.isLt
  have h1 := imm8.isLt
  exact (isWide_of_lt (by omega)).symm

theorem EncodedWidth.stm (rn : LowReg) (list : BitVec 8) : Statement (.stm rn list) := by
  have h0 := rn.isLt
  have h1 := list.isLt
  exact (isWide_of_lt (by omega)).symm

theorem EncodedWidth.ldm (rn : LowReg) (list : BitVec 8) : Statement (.ldm rn list) := by
  have h0 := rn.isLt
  have h1 := list.isLt
  exact (isWide_of_lt (by omega)).symm

theorem EncodedWidth.push (m : Bool) (list : BitVec 8) : Statement (.push m list) := by
  have h0 := Bool.toNat_lt m
  have h1 := list.isLt
  exact (isWide_of_lt (by omega)).symm

theorem EncodedWidth.pop (p : Bool) (list : BitVec 8) : Statement (.pop p list) := by
  have h0 := Bool.toNat_lt p
  have h1 := list.isLt
  exact (isWide_of_lt (by omega)).symm

theorem EncodedWidth.bCond (cond : Cond) (imm8 : BitVec 8) : Statement (.bCond cond imm8) := by
  have h0 := Cond.toNat_lt cond
  have h1 := imm8.isLt
  exact (isWide_of_lt (by omega)).symm

theorem EncodedWidth.b (imm11 : BitVec 11) : Statement (.b imm11) := by
  have h0 := imm11.isLt
  exact (isWide_of_lt (by omega)).symm

theorem EncodedWidth.bl (s : BitVec 1) (imm10 : BitVec 10) (j1 : BitVec 1) (j2 : BitVec 1) (imm11 : BitVec 11) : Statement (.bl s imm10 j1 j2 imm11) := by
  have h0 := s.isLt
  have h1 := imm10.isLt
  exact (isWide_of_ge (by omega) (by omega)).symm

theorem EncodedWidth.bx (rm : Reg) : Statement (.bx rm) := by
  have h0 := rm.isLt
  exact (isWide_of_lt (by omega)).symm

theorem EncodedWidth.blx (rm : Reg) : Statement (.blx rm) := by
  have h0 := rm.isLt
  exact (isWide_of_lt (by omega)).symm

theorem EncodedWidth.adr (rd : LowReg) (imm8 : BitVec 8) : Statement (.adr rd imm8) := by
  have h0 := rd.isLt
  have h1 := imm8.isLt
  exact (isWide_of_lt (by omega)).symm

theorem EncodedWidth.addSpRd (rd : LowReg) (imm8 : BitVec 8) : Statement (.addSpRd rd imm8) := by
  have h0 := rd.isLt
  have h1 := imm8.isLt
  exact (isWide_of_lt (by omega)).symm

theorem EncodedWidth.addSpImm7 (imm7 : BitVec 7) : Statement (.addSpImm7 imm7) := by
  have h0 := imm7.isLt
  exact (isWide_of_lt (by omega)).symm

theorem EncodedWidth.subSpImm7 (imm7 : BitVec 7) : Statement (.subSpImm7 imm7) := by
  have h0 := imm7.isLt
  exact (isWide_of_lt (by omega)).symm

theorem EncodedWidth.sxth (rd : LowReg) (rm : LowReg) : Statement (.sxth rd rm) := by
  have h0 := rd.isLt
  have h1 := rm.isLt
  exact (isWide_of_lt (by omega)).symm

theorem EncodedWidth.sxtb (rd : LowReg) (rm : LowReg) : Statement (.sxtb rd rm) := by
  have h0 := rd.isLt
  have h1 := rm.isLt
  exact (isWide_of_lt (by omega)).symm

theorem EncodedWidth.uxth (rd : LowReg) (rm : LowReg) : Statement (.uxth rd rm) := by
  have h0 := rd.isLt
  have h1 := rm.isLt
  exact (isWide_of_lt (by omega)).symm

theorem EncodedWidth.uxtb (rd : LowReg) (rm : LowReg) : Statement (.uxtb rd rm) := by
  have h0 := rd.isLt
  have h1 := rm.isLt
  exact (isWide_of_lt (by omega)).symm

theorem EncodedWidth.rev (rd : LowReg) (rm : LowReg) : Statement (.rev rd rm) := by
  have h0 := rd.isLt
  have h1 := rm.isLt
  exact (isWide_of_lt (by omega)).symm

theorem EncodedWidth.rev16 (rd : LowReg) (rm : LowReg) : Statement (.rev16 rd rm) := by
  have h0 := rd.isLt
  have h1 := rm.isLt
  exact (isWide_of_lt (by omega)).symm

theorem EncodedWidth.revsh (rd : LowReg) (rm : LowReg) : Statement (.revsh rd rm) := by
  have h0 := rd.isLt
  have h1 := rm.isLt
  exact (isWide_of_lt (by omega)).symm

theorem EncodedWidth.bkpt (imm8 : BitVec 8) : Statement (.bkpt imm8) := by
  have h0 := imm8.isLt
  exact (isWide_of_lt (by omega)).symm

theorem EncodedWidth.nop : Statement (.nop) := by
  exact (isWide_of_lt (by omega)).symm

theorem EncodedWidth.yield : Statement (.yield) := by
  exact (isWide_of_lt (by omega)).symm

theorem EncodedWidth.wfe : Statement (.wfe) := by
  exact (isWide_of_lt (by omega)).symm

theorem EncodedWidth.wfi : Statement (.wfi) := by
  exact (isWide_of_lt (by omega)).symm

theorem EncodedWidth.sev : Statement (.sev) := by
  exact (isWide_of_lt (by omega)).symm

theorem EncodedWidth.cpsie : Statement (.cpsie) := by
  exact (isWide_of_lt (by omega)).symm

theorem EncodedWidth.cpsid : Statement (.cpsid) := by
  exact (isWide_of_lt (by omega)).symm

theorem EncodedWidth.mrs (rd : Reg) (sysm : SysReg) : Statement (.mrs rd sysm) := by
  exact (isWide_of_ge (by omega) (by omega)).symm

theorem EncodedWidth.msr (sysm : SysReg) (rn : Reg) : Statement (.msr sysm rn) := by
  have h0 := rn.isLt
  exact (isWide_of_ge (by omega) (by omega)).symm

theorem EncodedWidth.dsb : Statement (.dsb) := by
  exact (isWide_of_ge (by omega) (by omega)).symm

theorem EncodedWidth.dmb : Statement (.dmb) := by
  exact (isWide_of_ge (by omega) (by omega)).symm

theorem EncodedWidth.isb : Statement (.isb) := by
  exact (isWide_of_ge (by omega) (by omega)).symm

theorem EncodedWidth.svc (imm8 : BitVec 8) : Statement (.svc imm8) := by
  have h0 := imm8.isLt
  exact (isWide_of_lt (by omega)).symm

theorem EncodedWidth.udf (imm8 : BitVec 8) : Statement (.udf imm8) := by
  have h0 := imm8.isLt
  exact (isWide_of_lt (by omega)).symm

theorem EncodedWidth.udfW (imm4 : BitVec 4) (imm12 : BitVec 12) : Statement (.udfW imm4 imm12) := by
  have h0 := imm4.isLt
  exact (isWide_of_ge (by omega) (by omega)).symm

end Sys2Proof.Laws
end

