-- ==== Sys2Proof/Machine/Record.lean ====
section
/-! DEFINITION. The decoded record of spec 40 R91 and its filling (R92). It lives for one step and no state holds it; the execution
units read their operands from the constructor of `Instr`, whose fields are the row's. -/

namespace Sys2Proof.Machine

/-- The addressing modes of spec 40 R91. -/
inductive AMode
  | none | immOffset | regOffset | pcRelative | spRelative | multipleIA | multipleDB
deriving DecidableEq, Repr

/-- The decoded record (spec 40 R91). -/
structure DecodedRecord where
  /-- The mnemonic of the row as spec/opcode_table.json spells it, or EXIT. -/
  tag : String
  len : Nat
  rd : Reg
  rn : Reg
  rm : Reg
  rt : Reg
  imm : Word
  cond : BitVec 4
  reglist : BitVec 16
  amode : AMode
  width : Width
  signed : Bool
  sysm : BitVec 8
  raw : Word
deriving DecidableEq, Repr

/-- hw1, or hw1:hw2 (spec 40 R91). -/
def rawWord (w : Half × Option Half) : Word :=
  match w.2 with
  | some h2 => w.1 ++ h2
  | none => zext w.1

/-- A record with every field a format may lack at the value it then has (spec 40 R91). -/
def recordOf (tag : String) (i : Instr) : DecodedRecord :=
  { tag := tag, len := i.len, rd := 0, rn := 0, rm := 0, rt := 0, imm := 0#32, cond := 0b1110#4, reglist := 0#16,
    amode := .none, width := .word, signed := false, sysm := 0#8, raw := rawWord (encode i) }

/-- The bit an extra register adds to a register list (spec 40 R92). -/
def listBit (present : Bool) (k : Nat) : BitVec 16 := if present then BitVec.twoPow 16 k else 0#16

/-- `Fill(row, w)` (spec 40 R92). For T_HIREG the rule names `rd = D:Rdn_lo` and `rn = N:Rn_lo`, which is what is filled
(DEDUCED, notes/assumptions/14.md). -/
def fill (i : Instr) : DecodedRecord :=
  match i with
  | .lslsImm rd rm imm5 => { recordOf "LSLS_imm" (.lslsImm rd rm imm5) with rd := lo rd, rm := lo rm, imm := zext imm5 }
  | .lsrsImm rd rm imm5 => { recordOf "LSRS_imm" (.lsrsImm rd rm imm5) with rd := lo rd, rm := lo rm, imm := BitVec.ofNat 32 (rightShiftAmount imm5) }
  | .asrsImm rd rm imm5 => { recordOf "ASRS_imm" (.asrsImm rd rm imm5) with rd := lo rd, rm := lo rm, imm := BitVec.ofNat 32 (rightShiftAmount imm5) }
  | .addsReg rd rn rm => { recordOf "ADDS_reg" (.addsReg rd rn rm) with rd := lo rd, rn := lo rn, rm := lo rm }
  | .subsReg rd rn rm => { recordOf "SUBS_reg" (.subsReg rd rn rm) with rd := lo rd, rn := lo rn, rm := lo rm }
  | .addsImm3 rd rn imm3 => { recordOf "ADDS_imm3" (.addsImm3 rd rn imm3) with rd := lo rd, rn := lo rn, imm := zext imm3 }
  | .subsImm3 rd rn imm3 => { recordOf "SUBS_imm3" (.subsImm3 rd rn imm3) with rd := lo rd, rn := lo rn, imm := zext imm3 }
  | .movsImm rd imm8 => { recordOf "MOVS_imm" (.movsImm rd imm8) with rd := lo rd, imm := zext imm8 }
  | .cmpImm rn imm8 => { recordOf "CMP_imm" (.cmpImm rn imm8) with rn := lo rn, imm := zext imm8 }
  | .addsImm8 rdn imm8 => { recordOf "ADDS_imm8" (.addsImm8 rdn imm8) with rd := lo rdn, rn := lo rdn, imm := zext imm8 }
  | .subsImm8 rdn imm8 => { recordOf "SUBS_imm8" (.subsImm8 rdn imm8) with rd := lo rdn, rn := lo rdn, imm := zext imm8 }
  | .ands rdn rm => { recordOf "ANDS" (.ands rdn rm) with rd := lo rdn, rn := lo rdn, rm := lo rm }
  | .eors rdn rm => { recordOf "EORS" (.eors rdn rm) with rd := lo rdn, rn := lo rdn, rm := lo rm }
  | .lslsReg rdn rm => { recordOf "LSLS_reg" (.lslsReg rdn rm) with rd := lo rdn, rn := lo rdn, rm := lo rm }
  | .lsrsReg rdn rm => { recordOf "LSRS_reg" (.lsrsReg rdn rm) with rd := lo rdn, rn := lo rdn, rm := lo rm }
  | .asrsReg rdn rm => { recordOf "ASRS_reg" (.asrsReg rdn rm) with rd := lo rdn, rn := lo rdn, rm := lo rm }
  | .adcs rdn rm => { recordOf "ADCS" (.adcs rdn rm) with rd := lo rdn, rn := lo rdn, rm := lo rm }
  | .sbcs rdn rm => { recordOf "SBCS" (.sbcs rdn rm) with rd := lo rdn, rn := lo rdn, rm := lo rm }
  | .rors rdn rm => { recordOf "RORS" (.rors rdn rm) with rd := lo rdn, rn := lo rdn, rm := lo rm }
  | .tst rn rm => { recordOf "TST" (.tst rn rm) with rn := lo rn, rm := lo rm }
  | .rsbs rd rn => { recordOf "RSBS" (.rsbs rd rn) with rd := lo rd, rn := lo rn }
  | .cmpReg rn rm => { recordOf "CMP_reg" (.cmpReg rn rm) with rn := lo rn, rm := lo rm }
  | .cmn rn rm => { recordOf "CMN" (.cmn rn rm) with rn := lo rn, rm := lo rm }
  | .orrs rdn rm => { recordOf "ORRS" (.orrs rdn rm) with rd := lo rdn, rn := lo rdn, rm := lo rm }
  | .muls rdm rn => { recordOf "MULS" (.muls rdm rn) with rd := lo rdm, rm := lo rdm, rn := lo rn }
  | .bics rdn rm => { recordOf "BICS" (.bics rdn rm) with rd := lo rdn, rn := lo rdn, rm := lo rm }
  | .mvns rd rm => { recordOf "MVNS" (.mvns rd rm) with rd := lo rd, rm := lo rm }
  | .addHi rdn rm => { recordOf "ADD_hi" (.addHi rdn rm) with rd := rdn, rm := rm }
  | .cmpHi rn rm => { recordOf "CMP_hi" (.cmpHi rn rm) with rn := rn, rm := rm }
  | .movHi rd rm => { recordOf "MOV_hi" (.movHi rd rm) with rd := rd, rm := rm }
  | .ldrLit rt imm8 => { recordOf "LDR_lit" (.ldrLit rt imm8) with rt := lo rt, imm := wordScaled imm8, amode := .pcRelative }
  | .strReg rt rn rm => { recordOf "STR_reg" (.strReg rt rn rm) with rt := lo rt, rn := lo rn, rm := lo rm, amode := .regOffset }
  | .strhReg rt rn rm => { recordOf "STRH_reg" (.strhReg rt rn rm) with rt := lo rt, rn := lo rn, rm := lo rm, amode := .regOffset, width := .half }
  | .strbReg rt rn rm => { recordOf "STRB_reg" (.strbReg rt rn rm) with rt := lo rt, rn := lo rn, rm := lo rm, amode := .regOffset, width := .byte }
  | .ldrsbReg rt rn rm => { recordOf "LDRSB_reg" (.ldrsbReg rt rn rm) with rt := lo rt, rn := lo rn, rm := lo rm, amode := .regOffset, width := .byte, signed := true }
  | .ldrReg rt rn rm => { recordOf "LDR_reg" (.ldrReg rt rn rm) with rt := lo rt, rn := lo rn, rm := lo rm, amode := .regOffset }
  | .ldrhReg rt rn rm => { recordOf "LDRH_reg" (.ldrhReg rt rn rm) with rt := lo rt, rn := lo rn, rm := lo rm, amode := .regOffset, width := .half }
  | .ldrbReg rt rn rm => { recordOf "LDRB_reg" (.ldrbReg rt rn rm) with rt := lo rt, rn := lo rn, rm := lo rm, amode := .regOffset, width := .byte }
  | .ldrshReg rt rn rm => { recordOf "LDRSH_reg" (.ldrshReg rt rn rm) with rt := lo rt, rn := lo rn, rm := lo rm, amode := .regOffset, width := .half, signed := true }
  | .strImm rt rn imm5 => { recordOf "STR_imm" (.strImm rt rn imm5) with rt := lo rt, rn := lo rn, imm := wordScaled imm5, amode := .immOffset }
  | .ldrImm rt rn imm5 => { recordOf "LDR_imm" (.ldrImm rt rn imm5) with rt := lo rt, rn := lo rn, imm := wordScaled imm5, amode := .immOffset }
  | .strbImm rt rn imm5 => { recordOf "STRB_imm" (.strbImm rt rn imm5) with rt := lo rt, rn := lo rn, imm := zext imm5, amode := .immOffset, width := .byte }
  | .ldrbImm rt rn imm5 => { recordOf "LDRB_imm" (.ldrbImm rt rn imm5) with rt := lo rt, rn := lo rn, imm := zext imm5, amode := .immOffset, width := .byte }
  | .strhImm rt rn imm5 => { recordOf "STRH_imm" (.strhImm rt rn imm5) with rt := lo rt, rn := lo rn, imm := halfScaled imm5, amode := .immOffset, width := .half }
  | .ldrhImm rt rn imm5 => { recordOf "LDRH_imm" (.ldrhImm rt rn imm5) with rt := lo rt, rn := lo rn, imm := halfScaled imm5, amode := .immOffset, width := .half }
  | .strSp rt imm8 => { recordOf "STR_sp" (.strSp rt imm8) with rt := lo rt, imm := wordScaled imm8, amode := .spRelative }
  | .ldrSp rt imm8 => { recordOf "LDR_sp" (.ldrSp rt imm8) with rt := lo rt, imm := wordScaled imm8, amode := .spRelative }
  | .stm rn list => { recordOf "STM" (.stm rn list) with rn := lo rn, reglist := list.setWidth 16, amode := .multipleIA }
  | .ldm rn list => { recordOf "LDM" (.ldm rn list) with rn := lo rn, reglist := list.setWidth 16, amode := .multipleIA }
  | .push m list => { recordOf "PUSH" (.push m list) with reglist := list.setWidth 16 ||| listBit m 14, amode := .multipleDB }
  | .pop p list => { recordOf "POP" (.pop p list) with reglist := list.setWidth 16 ||| listBit p 15, amode := .multipleIA }
  | .bCond cond imm8 => { recordOf "B_cond" (.bCond cond imm8) with imm := branchOffset imm8, cond := BitVec.ofNat 4 cond.toNat }
  | .b imm11 => { recordOf "B" (.b imm11) with imm := branchOffset imm11 }
  | .bl s imm10 j1 j2 imm11 => { recordOf "BL" (.bl s imm10 j1 j2 imm11) with imm := blOffset s imm10 j1 j2 imm11 }
  | .bx rm => { recordOf "BX" (.bx rm) with rm := rm }
  | .blx rm => { recordOf "BLX" (.blx rm) with rm := rm }
  | .adr rd imm8 => { recordOf "ADR" (.adr rd imm8) with rd := lo rd, imm := wordScaled imm8, amode := .pcRelative }
  | .addSpRd rd imm8 => { recordOf "ADD_sp_rd" (.addSpRd rd imm8) with rd := lo rd, imm := wordScaled imm8, amode := .spRelative }
  | .addSpImm7 imm7 => { recordOf "ADD_sp_imm7" (.addSpImm7 imm7) with imm := wordScaled imm7 }
  | .subSpImm7 imm7 => { recordOf "SUB_sp_imm7" (.subSpImm7 imm7) with imm := wordScaled imm7 }
  | .sxth rd rm => { recordOf "SXTH" (.sxth rd rm) with rd := lo rd, rm := lo rm }
  | .sxtb rd rm => { recordOf "SXTB" (.sxtb rd rm) with rd := lo rd, rm := lo rm }
  | .uxth rd rm => { recordOf "UXTH" (.uxth rd rm) with rd := lo rd, rm := lo rm }
  | .uxtb rd rm => { recordOf "UXTB" (.uxtb rd rm) with rd := lo rd, rm := lo rm }
  | .rev rd rm => { recordOf "REV" (.rev rd rm) with rd := lo rd, rm := lo rm }
  | .rev16 rd rm => { recordOf "REV16" (.rev16 rd rm) with rd := lo rd, rm := lo rm }
  | .revsh rd rm => { recordOf "REVSH" (.revsh rd rm) with rd := lo rd, rm := lo rm }
  | .bkpt imm8 => { recordOf "EXIT" (.bkpt imm8) with imm := zext imm8 }
  | .nop => recordOf "NOP" .nop
  | .yield => recordOf "YIELD" .yield
  | .wfe => recordOf "WFE" .wfe
  | .wfi => recordOf "WFI" .wfi
  | .sev => recordOf "SEV" .sev
  | .cpsie => recordOf "CPSIE" .cpsie
  | .cpsid => recordOf "CPSID" .cpsid
  | .mrs rd sysm => { recordOf "MRS" (.mrs rd sysm) with rd := rd, imm := BitVec.ofNat 32 sysm.toNat, sysm := BitVec.ofNat 8 sysm.toNat }
  | .msr sysm rn => { recordOf "MSR" (.msr sysm rn) with rn := rn, imm := BitVec.ofNat 32 sysm.toNat, sysm := BitVec.ofNat 8 sysm.toNat }
  | .dsb => recordOf "DSB" .dsb
  | .dmb => recordOf "DMB" .dmb
  | .isb => recordOf "ISB" .isb
  | .svc imm8 => { recordOf "SVC" (.svc imm8) with imm := zext imm8 }
  | .udf imm8 => { recordOf "UDF" (.udf imm8) with imm := zext imm8 }
  | .udfW imm4 imm12 => { recordOf "UDF_W" (.udfW imm4 imm12) with imm := zext (imm4 ++ imm12) }

end Sys2Proof.Machine
end

