-- ==== Sys2Proof/Tests/Slice0.lean ====
section
/-! SUPPORT. Tests of single steps against the vectors of spec 95, words written out from the encodings of spec 30, ill-formed terms,
and a witness for the hypotheses of every obligation that has some. -/

namespace Sys2Proof.Tests

open Sys2Proof Sys2Proof.Machine

/-! ### The setup of spec 95, section L2 -/

/-- Halfwords stored from an address upward. -/
def place (hws : List Half) (a : Word) (s : State) : State :=
  s.setMem (placeBytes (hws.flatMap fun h => [h.extractLsb' 0 8, h.extractLsb' 8 8]) a s.mem)

/-- The instruction at A = 0x100, the flags, the registers and the words that differ from 0. -/
def setup (hws : List Half) (nzcv : BitVec 4) (regs : List (Reg × Word)) (words : List (Word × Word)) : State :=
  let s := ((place hws 0x100#32 State.reset).setPcReg 0x105#32).setFlags (Flags.ofWord (nzcv ++ 0#28))
  let s := regs.foldl (fun s p => s.setX p.1 p.2) s
  words.foldl (fun s p => s.setMem (s.mem.store p.1 .word p.2)) s

/-- SYSTEM_EXT true. -/
def systemOn (s : State) : State := { s with params := { s.params with systemExt := true } }

/-- PM set. -/
def masked (s : State) : State := s.setPrimask true

/-- One CPU step ends with these flags, `pc_reg`, cycles, registers and words. -/
def ends (s : State) (nzcv : BitVec 4) (pcReg : Word) (cycles : Nat) (regs : List (Reg × Word))
    (words : List (Word × Word)) : Bool :=
  match cpuStep s with
  | .next t => t.cpu.flags.packed == nzcv ++ 0#28 && t.cpu.pcReg == pcReg && t.stepCycles == cycles &&
      regs.all (fun p => t.x p.1 == p.2) && words.all (fun p => t.mem.load p.1 .word == p.2)
  | _ => false

/-- One CPU step raises this fatal condition. -/
def stops (s : State) (f : Fault) : Bool :=
  match cpuStep s with
  | .fault g => decide (g = f)
  | _ => false

/-- An outcome is a next state. -/
def completes (o : Result) : Bool :=
  match o with
  | .next _ => true
  | _ => false

theorem exists_of_completes {o : Result} (h : completes o = true) : ∃ t, o = .next t := by
  cases o with
  | next t => exact ⟨t, rfl⟩
  | fault f => cases h
  | refused r => cases h

theorem eq_fault {o : Result} {f : Fault} (h : (match o with | .fault g => decide (g = f) | _ => false) = true) :
    o = .fault f := by
  cases o with
  | next t => cases h
  | fault g => exact congrArg Host.Outcome.fault (by simpa using h)
  | refused r => cases h

theorem exists_next {o : Result} {P : State → Prop} [DecidablePred P]
    (h : (match o with | .next t => decide (P t) | _ => false) = true) : ∃ t, o = .next t ∧ P t := by
  cases o with
  | next t => exact ⟨t, rfl, by simpa using h⟩
  | fault f => cases h
  | refused r => cases h

/-! ### Ill-formed terms: one for each check of WellFormed (spec 30 R77) -/

theorem test_ill_formed :
    ¬(Instr.addHi 15 15).WellFormed ∧ ¬(Instr.cmpHi 7 7).WellFormed ∧ ¬(Instr.cmpHi 15 8).WellFormed ∧
    ¬(Instr.cmpHi 8 15).WellFormed ∧ ¬(Instr.blx 15).WellFormed ∧ ¬(Instr.stm 1 0#8).WellFormed ∧
    ¬(Instr.stm 1 0b11#8).WellFormed ∧ ¬(Instr.ldm 1 0#8).WellFormed ∧ ¬(Instr.push false 0#8).WellFormed ∧
    ¬(Instr.pop false 0#8).WellFormed ∧ ¬(Instr.mrs 13 .apsr).WellFormed ∧ ¬(Instr.mrs 15 .apsr).WellFormed ∧
    ¬(Instr.msr .apsr 13).WellFormed ∧ ¬(Instr.msr .apsr 15).WellFormed := by decide

theorem test_well_formed_neighbours :
    (Instr.addHi 15 14).WellFormed ∧ (Instr.addHi 14 15).WellFormed ∧ (Instr.cmpHi 8 7).WellFormed ∧
    (Instr.cmpHi 7 8).WellFormed ∧ (Instr.blx 14).WellFormed ∧ (Instr.stm 0 0b11#8).WellFormed ∧
    (Instr.stm 1 0b10#8).WellFormed ∧ (Instr.stm 1 0b101#8).WellFormed ∧ (Instr.ldm 1 0b11#8).WellFormed ∧
    (Instr.push true 0#8).WellFormed ∧ (Instr.pop true 0#8).WellFormed ∧ (Instr.mrs 14 .apsr).WellFormed := by decide

/-! ### A word of each row, bit by bit from its pattern in spec 30 R75 -/

theorem test_decode_shift_add_sub :
    encodes16 (0b00000#5 ++ 0b11111#5 ++ 0b011#3 ++ 0b010#3) (.lslsImm 2 3 31#5) ∧
    encodes16 (0b00001#5 ++ 0b00000#5 ++ 0b001#3 ++ 0b000#3) (.lsrsImm 0 1 0#5) ∧
    encodes16 (0b00010#5 ++ 0b11111#5 ++ 0b010#3 ++ 0b001#3) (.asrsImm 1 2 31#5) ∧
    encodes16 (0b0001100#7 ++ 0b010#3 ++ 0b001#3 ++ 0b000#3) (.addsReg 0 1 2) ∧
    encodes16 (0b0001101#7 ++ 0b010#3 ++ 0b001#3 ++ 0b000#3) (.subsReg 0 1 2) ∧
    encodes16 (0b0001110#7 ++ 0b101#3 ++ 0b011#3 ++ 0b110#3) (.addsImm3 6 3 5#3) ∧
    encodes16 (0b0001111#7 ++ 0b111#3 ++ 0b000#3 ++ 0b001#3) (.subsImm3 1 0 7#3) ∧
    encodes16 (0b00100#5 ++ 0b111#3 ++ 0b11111111#8) (.movsImm 7 255#8) ∧
    encodes16 (0b00101#5 ++ 0b010#3 ++ 0b00001100#8) (.cmpImm 2 12#8) ∧
    encodes16 (0b00110#5 ++ 0b001#3 ++ 0b00000001#8) (.addsImm8 1 1#8) ∧
    encodes16 (0b00111#5 ++ 0b001#3 ++ 0b00001100#8) (.subsImm8 1 12#8) := by decide

theorem test_decode_data_processing :
    encodes16 (0b0100000000#10 ++ 0b001#3 ++ 0b010#3) (.ands 2 1) ∧
    encodes16 (0b0100000001#10 ++ 0b001#3 ++ 0b010#3) (.eors 2 1) ∧
    encodes16 (0b0100000010#10 ++ 0b001#3 ++ 0b010#3) (.lslsReg 2 1) ∧
    encodes16 (0b0100000011#10 ++ 0b001#3 ++ 0b010#3) (.lsrsReg 2 1) ∧
    encodes16 (0b0100000100#10 ++ 0b001#3 ++ 0b010#3) (.asrsReg 2 1) ∧
    encodes16 (0b0100000101#10 ++ 0b001#3 ++ 0b010#3) (.adcs 2 1) ∧
    encodes16 (0b0100000110#10 ++ 0b001#3 ++ 0b010#3) (.sbcs 2 1) ∧
    encodes16 (0b0100000111#10 ++ 0b001#3 ++ 0b010#3) (.rors 2 1) ∧
    encodes16 (0b0100001000#10 ++ 0b001#3 ++ 0b010#3) (.tst 2 1) ∧
    encodes16 (0b0100001001#10 ++ 0b001#3 ++ 0b010#3) (.rsbs 2 1) ∧
    encodes16 (0b0100001010#10 ++ 0b001#3 ++ 0b010#3) (.cmpReg 2 1) ∧
    encodes16 (0b0100001011#10 ++ 0b001#3 ++ 0b010#3) (.cmn 2 1) ∧
    encodes16 (0b0100001100#10 ++ 0b001#3 ++ 0b010#3) (.orrs 2 1) ∧
    encodes16 (0b0100001101#10 ++ 0b001#3 ++ 0b010#3) (.muls 2 1) ∧
    encodes16 (0b0100001110#10 ++ 0b001#3 ++ 0b010#3) (.bics 2 1) ∧
    encodes16 (0b0100001111#10 ++ 0b001#3 ++ 0b010#3) (.mvns 2 1) ∧
    encodes16 (0b01000100#8 ++ 0b1#1 ++ 0b1001#4 ++ 0b000#3) (.addHi 8 9) ∧
    encodes16 (0b01000101#8 ++ 0b0#1 ++ 0b1000#4 ++ 0b001#3) (.cmpHi 1 8) ∧
    encodes16 (0b01000110#8 ++ 0b1#1 ++ 0b1110#4 ++ 0b111#3) (.movHi 15 14) := by decide

theorem test_decode_load_store :
    encodes16 (0b01001#5 ++ 0b010#3 ++ 0b00000001#8) (.ldrLit 2 1#8) ∧
    encodes16 (0b0101000#7 ++ 0b010#3 ++ 0b001#3 ++ 0b011#3) (.strReg 3 1 2) ∧
    encodes16 (0b0101001#7 ++ 0b010#3 ++ 0b001#3 ++ 0b011#3) (.strhReg 3 1 2) ∧
    encodes16 (0b0101010#7 ++ 0b010#3 ++ 0b001#3 ++ 0b011#3) (.strbReg 3 1 2) ∧
    encodes16 (0b0101011#7 ++ 0b010#3 ++ 0b001#3 ++ 0b011#3) (.ldrsbReg 3 1 2) ∧
    encodes16 (0b0101100#7 ++ 0b010#3 ++ 0b001#3 ++ 0b011#3) (.ldrReg 3 1 2) ∧
    encodes16 (0b0101101#7 ++ 0b010#3 ++ 0b001#3 ++ 0b011#3) (.ldrhReg 3 1 2) ∧
    encodes16 (0b0101110#7 ++ 0b010#3 ++ 0b001#3 ++ 0b011#3) (.ldrbReg 3 1 2) ∧
    encodes16 (0b0101111#7 ++ 0b010#3 ++ 0b001#3 ++ 0b011#3) (.ldrshReg 3 1 2) ∧
    encodes16 (0b01100#5 ++ 0b00011#5 ++ 0b001#3 ++ 0b110#3) (.strImm 6 1 3#5) ∧
    encodes16 (0b01101#5 ++ 0b00011#5 ++ 0b001#3 ++ 0b110#3) (.ldrImm 6 1 3#5) ∧
    encodes16 (0b01110#5 ++ 0b00011#5 ++ 0b001#3 ++ 0b110#3) (.strbImm 6 1 3#5) ∧
    encodes16 (0b01111#5 ++ 0b00011#5 ++ 0b001#3 ++ 0b110#3) (.ldrbImm 6 1 3#5) ∧
    encodes16 (0b10000#5 ++ 0b00011#5 ++ 0b001#3 ++ 0b110#3) (.strhImm 6 1 3#5) ∧
    encodes16 (0b10001#5 ++ 0b00011#5 ++ 0b001#3 ++ 0b110#3) (.ldrhImm 6 1 3#5) ∧
    encodes16 (0b10010#5 ++ 0b101#3 ++ 0b11111111#8) (.strSp 5 255#8) ∧
    encodes16 (0b10011#5 ++ 0b101#3 ++ 0b11111111#8) (.ldrSp 5 255#8) ∧
    encodes16 (0b11000#5 ++ 0b001#3 ++ 0b00000110#8) (.stm 1 0b110#8) ∧
    encodes16 (0b11001#5 ++ 0b000#3 ++ 0b00011100#8) (.ldm 0 0b11100#8) ∧
    encodes16 (0b1011010#7 ++ 0b1#1 ++ 0b00010000#8) (.push true 0b10000#8) ∧
    encodes16 (0b1011110#7 ++ 0b0#1 ++ 0b00010000#8) (.pop false 0b10000#8) := by decide

theorem test_decode_branch :
    encodes16 (0b1101#4 ++ 0b0001#4 ++ 0b11111100#8) (.bCond .ne 0xFC#8) ∧
    encodes16 (0b1101#4 ++ 0b1101#4 ++ 0b00000001#8) (.bCond .le 1#8) ∧
    encodes16 (0b11100#5 ++ 0b11111111110#11) (.b 0x7FE#11) ∧
    encodes32 (0b11110#5 ++ 0b1#1 ++ 0b0000000001#10) (0b11#2 ++ 0b0#1 ++ 0b1#1 ++ 0b1#1 ++ 0b00000000010#11)
      (.bl 1#1 1#10 0#1 1#1 2#11) ∧
    encodes16 (0b010001110#9 ++ 0b1110#4 ++ 0b000#3) (.bx 14) ∧
    encodes16 (0b010001111#9 ++ 0b0001#4 ++ 0b000#3) (.blx 1) := by decide

theorem test_decode_misc_system :
    encodes16 (0b10100#5 ++ 0b011#3 ++ 0b00001010#8) (.adr 3 10#8) ∧
    encodes16 (0b10101#5 ++ 0b011#3 ++ 0b00001010#8) (.addSpRd 3 10#8) ∧
    encodes16 (0b101100000#9 ++ 0b1111111#7) (.addSpImm7 127#7) ∧
    encodes16 (0b101100001#9 ++ 0b0000001#7) (.subSpImm7 1#7) ∧
    encodes16 (0b1011001000#10 ++ 0b001#3 ++ 0b010#3) (.sxth 2 1) ∧
    encodes16 (0b1011001001#10 ++ 0b001#3 ++ 0b010#3) (.sxtb 2 1) ∧
    encodes16 (0b1011001010#10 ++ 0b001#3 ++ 0b010#3) (.uxth 2 1) ∧
    encodes16 (0b1011001011#10 ++ 0b001#3 ++ 0b010#3) (.uxtb 2 1) ∧
    encodes16 (0b1011101000#10 ++ 0b001#3 ++ 0b010#3) (.rev 2 1) ∧
    encodes16 (0b1011101001#10 ++ 0b001#3 ++ 0b010#3) (.rev16 2 1) ∧
    encodes16 (0b1011101011#10 ++ 0b001#3 ++ 0b010#3) (.revsh 2 1) ∧
    encodes16 (0b10111110#8 ++ 0b10101011#8) (.bkpt 0xAB#8) ∧
    encodes16 0b1011111100000000#16 .nop ∧ encodes16 0b1011111100010000#16 .yield ∧
    encodes16 0b1011111100100000#16 .wfe ∧ encodes16 0b1011111100110000#16 .wfi ∧
    encodes16 0b1011111101000000#16 .sev ∧ encodes16 0b1011011001100010#16 .cpsie ∧
    encodes16 0b1011011001110010#16 .cpsid ∧
    encodes32 0b1111001111101111#16 (0b1000#4 ++ 0b0010#4 ++ 0b00001000#8) (.mrs 2 .msp) ∧
    encodes32 (0b111100111000#12 ++ 0b0011#4) (0b10001000#8 ++ 0b00010100#8) (.msr .control 3) ∧
    encodes32 0b1111001110111111#16 0b1000111101001111#16 .dsb ∧
    encodes32 0b1111001110111111#16 0b1000111101011111#16 .dmb ∧
    encodes32 0b1111001110111111#16 0b1000111101101111#16 .isb ∧
    encodes16 (0b11011111#8 ++ 0b00000101#8) (.svc 5#8) ∧
    encodes16 (0b11011110#8 ++ 0b00000101#8) (.udf 5#8) ∧
    encodes32 (0b111101111111#12 ++ 0b0101#4) (0b1010#4 ++ 0b000000000011#12) (.udfW 5#4 3#12) := by decide

/-! ### One step -/

/-- Spec 95 L2, R181, R182. -/
theorem test_cps :
    (match cpuStep (masked (systemOn (setup [0xB662#16] 0b0000#4 [] []))) with
      | .next t => t.cpu.primask == false && t.cpu.pcReg == 0x107#32 && t.stepCycles == 1
      | _ => false) = true ∧
    (match cpuStep (systemOn (setup [0xB672#16] 0b0000#4 [] [])) with
      | .next t => t.cpu.primask == true && t.cpu.pcReg == 0x107#32 && t.stepCycles == 1
      | _ => false) = true := by decide

/-! ### Spec 41 -/

/-- Spec 95 L2, R108. -/
theorem test_lsls_imm :
    ends (setup [0x07DA#16] 0b0000#4 [(3, 0x3#32)] []) 0b1010#4 0x107#32 1 [(2, 0x80000000#32), (3, 0x3#32)] [] = true := by decide

/-- Spec 95 L2, R108: amount 0 keeps C and V. -/
theorem test_lsls_imm_zero :
    ends (setup [0x001A#16] 0b0011#4 [(3, 0x0#32)] []) 0b0111#4 0x107#32 1 [(2, 0x0#32)] [] = true := by decide

/-- Spec 95 L2, R109: amount 32. -/
theorem test_lsrs_imm :
    ends (setup [0x0808#16] 0b0010#4 [(1, 0x7FFFFFFF#32)] []) 0b0100#4 0x107#32 1 [(0, 0x0#32)] [] = true := by decide

/-- Spec 95 L2, R110. -/
theorem test_asrs_imm :
    ends (setup [0x17D1#16] 0b0000#4 [(2, 0x40000000#32)] []) 0b0110#4 0x107#32 1 [(1, 0x0#32)] [] = true := by decide

/-- Spec 95 L2, R111. -/
theorem test_adds_reg :
    ends (setup [0x1888#16] 0b0000#4 [(1, 0x80000000#32), (2, 0x80000000#32)] []) 0b0111#4 0x107#32 1 [(0, 0x0#32)] [] = true := by decide

/-- Spec 95 L2, R112. -/
theorem test_subs_reg :
    ends (setup [0x1A88#16] 0b0000#4 [(1, 0x7FFFFFFF#32), (2, 0xFFFFFFFF#32)] []) 0b1001#4 0x107#32 1 [(0, 0x80000000#32)] [] = true := by decide

/-- Spec 95 L2, R113. -/
theorem test_adds_imm3 :
    ends (setup [0x1C1B#16] 0b0011#4 [(3, 0x80000000#32)] []) 0b1000#4 0x107#32 1 [(3, 0x80000000#32)] [] = true := by decide

/-- Spec 95 L2, R114. -/
theorem test_subs_imm3 :
    ends (setup [0x1FC0#16] 0b0000#4 [(0, 0x3#32)] []) 0b1000#4 0x107#32 1 [(0, 0xFFFFFFFC#32)] [] = true := by decide

/-- Spec 95 L2, R115. -/
theorem test_movs_imm :
    ends (setup [0x27FF#16] 0b1111#4 [] []) 0b0011#4 0x107#32 1 [(7, 0xFF#32)] [] = true := by decide

/-- Spec 95 L2, R116. -/
theorem test_cmp_imm :
    ends (setup [0x2801#16] 0b0000#4 [(0, 0x80000000#32)] []) 0b0011#4 0x107#32 1 [(0, 0x80000000#32)] [] = true := by decide

/-- Spec 95 L2, R117. -/
theorem test_adds_imm8 :
    ends (setup [0x3101#16] 0b0000#4 [(1, 0x7FFFFFFF#32)] []) 0b1001#4 0x107#32 1 [(1, 0x80000000#32)] [] = true := by decide

/-- Spec 95 L2, R118. -/
theorem test_subs_imm8 :
    ends (setup [0x3A00#16] 0b0000#4 [(2, 0x0#32)] []) 0b0110#4 0x107#32 1 [(2, 0x0#32)] [] = true := by decide

/-! ### Spec 42 -/

/-- By hand from R119. -/
theorem test_ands :
    ends (setup [0x4008#16] 0b0011#4 [(0, 0xF0F0F0F0#32), (1, 0x8F000000#32)] []) 0b1011#4 0x107#32 1 [(0, 0x80000000#32)] [] = true := by decide

/-- By hand from R120, destination and source one register. -/
theorem test_eors :
    ends (setup [0x4040#16] 0b1011#4 [(0, 0xF0F0F0F0#32)] []) 0b0111#4 0x107#32 1 [(0, 0x0#32)] [] = true := by decide

/-- By hand from R125: amount 32 gives 0 and the lowest bit as C. -/
theorem test_lsls_reg :
    ends (setup [0x4088#16] 0b0001#4 [(0, 0x3#32), (1, 0x120#32)] []) 0b0111#4 0x107#32 1 [(0, 0x0#32)] [] = true := by decide

/-- Spec 95 L2, R126: amount 33. -/
theorem test_lsrs_reg :
    ends (setup [0x40C8#16] 0b0010#4 [(0, 0x80000000#32), (1, 0x21#32)] []) 0b0100#4 0x107#32 1 [(0, 0x0#32)] [] = true := by decide

/-- Spec 95 L2, R127. -/
theorem test_asrs_reg :
    ends (setup [0x4108#16] 0b0000#4 [(0, 0x7FFFFFFF#32), (1, 0xFF#32)] []) 0b0100#4 0x107#32 1 [(0, 0x0#32)] [] = true := by decide

/-- Spec 95 L2, R128: amount 32. -/
theorem test_rors :
    ends (setup [0x41C8#16] 0b0000#4 [(0, 0x80000001#32), (1, 0x20#32)] []) 0b1010#4 0x107#32 1 [(0, 0x80000001#32)] [] = true := by decide

/-- Spec 95 L2, R128: a low byte of 0. -/
theorem test_rors_zero :
    ends (setup [0x41C8#16] 0b0000#4 [(0, 0x80000001#32), (1, 0x100#32)] []) 0b1000#4 0x107#32 1 [(0, 0x80000001#32)] [] = true := by decide

/-- Spec 95 L2, R129. -/
theorem test_adcs :
    ends (setup [0x4148#16] 0b0010#4 [(0, 0x7FFFFFFF#32), (1, 0x0#32)] []) 0b1001#4 0x107#32 1 [(0, 0x80000000#32)] [] = true := by decide

/-- Spec 95 L2, R130. -/
theorem test_sbcs :
    ends (setup [0x4188#16] 0b0000#4 [(0, 0x5#32), (1, 0x5#32)] []) 0b1000#4 0x107#32 1 [(0, 0xFFFFFFFF#32)] [] = true := by decide

/-- Spec 95 L2, R124. -/
theorem test_tst :
    ends (setup [0x4208#16] 0b0011#4 [(0, 0x80000000#32), (1, 0x80000000#32)] []) 0b1011#4 0x107#32 1 [(0, 0x80000000#32)] [] = true := by decide

/-- Spec 95 L2, R131. -/
theorem test_rsbs :
    ends (setup [0x4248#16] 0b0000#4 [(1, 0x80000000#32)] []) 0b1001#4 0x107#32 1 [(0, 0x80000000#32)] [] = true := by decide

/-- Spec 95 L2, R132. -/
theorem test_cmp_reg :
    ends (setup [0x4288#16] 0b0000#4 [(0, 0x80000000#32), (1, 0x1#32)] []) 0b0011#4 0x107#32 1 [(0, 0x80000000#32)] [] = true := by decide

/-- Spec 95 L2, R133. -/
theorem test_cmn :
    ends (setup [0x42C8#16] 0b0000#4 [(0, 0x1#32), (1, 0xFFFFFFFF#32)] []) 0b0110#4 0x107#32 1 [(0, 0x1#32)] [] = true := by decide

/-- By hand from R121. -/
theorem test_orrs :
    ends (setup [0x4308#16] 0b0111#4 [(0, 0x80000001#32), (1, 0x10#32)] []) 0b1011#4 0x107#32 1 [(0, 0x80000011#32)] [] = true := by decide

/-- Spec 95 L2, R134. -/
theorem test_muls :
    ends (setup [0x4348#16] 0b0000#4 [(0, 0xFFFFFFFF#32), (1, 0x3#32)] []) 0b1000#4 0x107#32 1 [(0, 0xFFFFFFFD#32)] [] = true := by decide

/-- Spec 95 L2, R122. -/
theorem test_bics :
    ends (setup [0x4388#16] 0b0000#4 [(0, 0x80000000#32), (1, 0x80000000#32)] []) 0b0100#4 0x107#32 1 [(0, 0x0#32)] [] = true := by decide

/-- By hand from R123. -/
theorem test_mvns :
    ends (setup [0x43C8#16] 0b1011#4 [(0, 0x7#32), (1, 0xFFFFFFFF#32)] []) 0b0111#4 0x107#32 1 [(0, 0x0#32)] [] = true := by decide

/-- Spec 95 L2, R135. -/
theorem test_add_hi :
    ends (setup [0x44C8#16] 0b0000#4 [(8, 0xFFFFFFFF#32), (9, 0x2#32)] []) 0b0000#4 0x107#32 1 [(8, 0x1#32)] [] = true := by decide

/-- Spec 95 L2, R135: writing the PC. -/
theorem test_add_hi_pc :
    ends (setup [0x4487#16] 0b0000#4 [(0, 0x10#32)] []) 0b0000#4 0x119#32 2 [(0, 0x10#32)] [] = true := by decide

/-- Spec 95 L2, R136. -/
theorem test_cmp_hi :
    ends (setup [0x4580#16] 0b0000#4 [(8, 0x1#32), (0, 0x2#32)] []) 0b1000#4 0x107#32 1 [(8, 0x1#32), (0, 0x2#32)] [] = true := by decide

/-- Spec 95 L2, R137: reading the PC. -/
theorem test_mov_hi :
    ends (setup [0x4678#16] 0b0000#4 [] []) 0b0000#4 0x107#32 1 [(0, 0x104#32)] [] = true := by decide

/-- Spec 95 L2, R137: an even target. -/
theorem test_mov_hi_pc :
    ends (setup [0x4687#16] 0b0000#4 [(0, 0x200#32)] []) 0b0000#4 0x205#32 2 [(0, 0x200#32)] [] = true := by decide

/-! ### Spec 43 -/

/-- By hand from R138: the base is the PC read value 0x104. -/
theorem test_ldr_lit :
    ends (setup [0x4801#16] 0b0000#4 [] [(0x108#32, 0x11223344#32)]) 0b0000#4 0x107#32 2 [(0, 0x11223344#32)] [] = true := by decide

/-- Spec 95 L2, R139: the program region. -/
theorem test_str_reg :
    stops (setup [0x5088#16] 0b0000#4 [(1, 0x0#32), (2, 0x100#32)] []) (.memoryFault 0x100#32 4 .write) = true := by decide

/-- By hand from R140. -/
theorem test_strh_reg :
    ends (setup [0x5288#16] 0b0000#4 [(0, 0xAABBCCDD#32), (1, 0x20000000#32), (2, 0x2#32)] []) 0b0000#4 0x107#32 2 [(0, 0xAABBCCDD#32)] [(0x20000000#32, 0xCCDD0000#32)] = true := by decide

/-- By hand from R141. -/
theorem test_strb_reg :
    ends (setup [0x5488#16] 0b0000#4 [(0, 0xAABBCCDD#32), (1, 0x20000000#32), (2, 0x3#32)] []) 0b0000#4 0x107#32 2 [(0, 0xAABBCCDD#32)] [(0x20000000#32, 0xDD000000#32)] = true := by decide

/-- Spec 95 L2, R142. -/
theorem test_ldrsb_reg :
    ends (setup [0x5688#16] 0b0000#4 [(1, 0x20000000#32), (2, 0x3#32)] [(0x20000000#32, 0x80000000#32)]) 0b0000#4 0x107#32 2 [(0, 0xFFFFFF80#32)] [] = true := by decide

/-- Spec 95 L2, R143: the address wraps. -/
theorem test_ldr_reg :
    ends (setup [0x5888#16] 0b0000#4 [(1, 0xFFFFFFFC#32), (2, 0x8#32)] [(0x4#32, 0x101#32)]) 0b0000#4 0x107#32 2 [(0, 0x101#32)] [] = true := by decide

/-- Spec 95 L2, R144. -/
theorem test_ldrh_reg_misaligned :
    stops (setup [0x5A88#16] 0b0000#4 [(1, 0x20000000#32), (2, 0x1#32)] []) (.alignmentFault 0x20000001#32 2) = true := by decide

/-- By hand from R144: zero-extended. -/
theorem test_ldrh_reg :
    ends (setup [0x5A88#16] 0b0000#4 [(1, 0x20000000#32), (2, 0x2#32)] [(0x20000000#32, 0x80010000#32)]) 0b0000#4 0x107#32 2 [(0, 0x8001#32)] [] = true := by decide

/-- By hand from R145: zero-extended. -/
theorem test_ldrb_reg :
    ends (setup [0x5C88#16] 0b0000#4 [(1, 0x20000000#32), (2, 0x1#32)] [(0x20000000#32, 0x8000#32)]) 0b0000#4 0x107#32 2 [(0, 0x80#32)] [] = true := by decide

/-- Spec 95 L2, R146. -/
theorem test_ldrsh_reg :
    ends (setup [0x5E88#16] 0b0000#4 [(1, 0x20000000#32), (2, 0x2#32)] [(0x20000000#32, 0x80010000#32)]) 0b0000#4 0x107#32 2 [(0, 0xFFFF8001#32)] [] = true := by decide

/-- Spec 95 L2, R147. -/
theorem test_str_imm :
    ends (setup [0x67C8#16] 0b0000#4 [(0, 0xDEADBEEF#32), (1, 0x20000000#32)] []) 0b0000#4 0x107#32 2 [(0, 0xDEADBEEF#32)] [(0x2000007C#32, 0xDEADBEEF#32)] = true := by decide

/-- Spec 95 L2, R148. -/
theorem test_ldr_imm_misaligned :
    stops (setup [0x6848#16] 0b0000#4 [(1, 0x20000002#32)] []) (.alignmentFault 0x20000006#32 4) = true := by decide

/-- By hand from R148. -/
theorem test_ldr_imm :
    ends (setup [0x6848#16] 0b0000#4 [(1, 0x20000000#32)] [(0x20000004#32, 0x55#32)]) 0b0000#4 0x107#32 2 [(0, 0x55#32)] [] = true := by decide

/-- Spec 95 L2, R149. -/
theorem test_strb_imm :
    ends (setup [0x7008#16] 0b0000#4 [(0, 0x12345678#32), (1, 0x20000001#32)] []) 0b0000#4 0x107#32 2 [(0, 0x12345678#32)] [(0x20000000#32, 0x7800#32)] = true := by decide

/-- Spec 95 L2, R150: the last byte of the data region. -/
theorem test_ldrb_imm :
    ends (setup [0x7808#16] 0b0000#4 [(1, 0x20000FFF#32)] [(0x20000FFC#32, 0x9A000000#32)]) 0b0000#4 0x107#32 2 [(0, 0x9A#32)] [] = true := by decide

/-- Spec 95 L2, R151. -/
theorem test_strh_imm :
    ends (setup [0x8048#16] 0b0000#4 [(0, 0xAABBCCDD#32), (1, 0x20000000#32)] []) 0b0000#4 0x107#32 2 [(0, 0xAABBCCDD#32)] [(0x20000000#32, 0xCCDD0000#32)] = true := by decide

/-- Spec 95 L2, R152: past the data region. -/
theorem test_ldrh_imm_unmapped :
    stops (setup [0x8808#16] 0b0000#4 [(1, 0x20001000#32)] []) (.memoryFault 0x20001000#32 2 .read) = true := by decide

/-- By hand from R152. -/
theorem test_ldrh_imm :
    ends (setup [0x8848#16] 0b0000#4 [(1, 0x20000000#32)] [(0x20000000#32, 0xFFFE0000#32)]) 0b0000#4 0x107#32 2 [(0, 0xFFFE#32)] [] = true := by decide

/-- Spec 95 L2, R153. -/
theorem test_str_sp :
    ends (setup [0x90FF#16] 0b0000#4 [(0, 0x7#32), (13, 0x20000000#32)] []) 0b0000#4 0x107#32 2 [(0, 0x7#32)] [(0x200003FC#32, 0x7#32)] = true := by decide

/-- Spec 95 L2, R154. -/
theorem test_ldr_sp :
    ends (setup [0x9B01#16] 0b0000#4 [(13, 0x20000000#32)] [(0x20000004#32, 0x55#32)]) 0b0000#4 0x107#32 2 [(3, 0x55#32)] [] = true := by decide

/-! ### Spec 44 -/

/-- Spec 95 L2, R155. -/
theorem test_stm :
    ends (setup [0xC003#16] 0b0000#4 [(0, 0x20000000#32), (1, 0x9#32)] []) 0b0000#4 0x107#32 3 [(0, 0x20000008#32), (1, 0x9#32)] [(0x20000000#32, 0x20000000#32), (0x20000004#32, 0x9#32)] = true := by decide

/-- Spec 95 L2, R156: Rn in the list is not written back. -/
theorem test_ldm :
    ends (setup [0xC803#16] 0b0000#4 [(0, 0x20000000#32)] [(0x20000000#32, 0x5#32), (0x20000004#32, 0x6#32)]) 0b0000#4 0x107#32 3 [(0, 0x5#32), (1, 0x6#32)] [] = true := by decide

/-- Spec 95 L2, R156: writeback. -/
theorem test_ldm_writeback :
    ends (setup [0xC806#16] 0b0000#4 [(0, 0x20000000#32)] [(0x20000000#32, 0x5#32), (0x20000004#32, 0x6#32)]) 0b0000#4 0x107#32 3 [(0, 0x20000008#32), (1, 0x5#32), (2, 0x6#32)] [] = true := by decide

/-- Spec 95 L2, R157. -/
theorem test_push :
    ends (setup [0xB510#16] 0b0000#4 [(13, 0x20000100#32), (4, 0x4#32), (14, 0x123#32)] []) 0b0000#4 0x107#32 3 [(4, 0x4#32), (13, 0x200000F8#32)] [(0x200000F8#32, 0x4#32), (0x200000FC#32, 0x123#32)] = true := by decide

/-- The data region ends at 2^32 (spec 20 R47), under one of the two readings for a PUSH at SP = 0. -/
def wholeTop (p : Config.PushAtZero) (s : State) : State :=
  { s with params := { s.params with ramSize := 0xE0000000, pushAtZero := p } }

/-- Spec 70 R256: a PUSH at SP = 0 faults, in the configuration of spec 95 and, by that rule, in the largest one, where by 20 R56 its words
are in the data region. -/
theorem test_push_at_zero :
    exec (.push false 1#8) (setup [0xB401#16] 0b0000#4 [] []) = .fault (.memoryFault 0xFFFFFFFC#32 4 .write) ∧
    exec (.push false 1#8) (wholeTop .faults (setup [0xB401#16] 0b0000#4 [] [])) =
      .fault (.memoryFault 0xFFFFFFFC#32 4 .write) ∧
    ends (wholeTop .stores (setup [0xB401#16] 0b0000#4 [(0, 7#32)] [])) 0b0000#4 0x107#32 2 [(13, 0xFFFFFFFC#32)]
      [(0xFFFFFFFC#32, 7#32)] = true :=
  ⟨eq_fault (by decide +kernel), eq_fault (by decide +kernel), by decide +kernel⟩

/-- Spec 95 L2, R158. -/
theorem test_pop :
    ends (setup [0xBD10#16] 0b0000#4 [(13, 0x20000100#32)] [(0x20000100#32, 0x4#32), (0x20000104#32, 0x201#32)]) 0b0000#4 0x205#32 4 [(4, 0x4#32), (13, 0x20000108#32)] [] = true := by decide

/-- Spec 95 L2, R238: the exception return. -/
theorem test_pop_exception_return :
    ends (setup [0xBD00#16] 0b1111#4 [(13, 0x20000100#32)] [(0x20000100#32, 0xFFFFFFF9#32), (0x20000104#32, 0x1#32), (0x20000108#32, 0x2#32), (0x2000010C#32, 0x3#32), (0x20000110#32, 0x4#32), (0x20000114#32, 0xC#32), (0x20000118#32, 0x1235#32), (0x2000011C#32, 0x300#32), (0x20000120#32, 0x1000000#32)]) 0b0000#4 0x305#32 11 [(0, 0x1#32), (1, 0x2#32), (2, 0x3#32), (3, 0x4#32), (12, 0xC#32), (13, 0x20000124#32), (14, 0x1235#32)] [] = true := by decide

/-! ### Spec 45 -/

/-- Spec 95 L2, R159: taken, to itself. -/
theorem test_b_cond_taken :
    ends (setup [0xD0FE#16] 0b0100#4 [] []) 0b0100#4 0x105#32 2 [] [] = true := by decide

/-- Spec 95 L2, R159: not taken. -/
theorem test_b_cond_not_taken :
    ends (setup [0xD0FE#16] 0b0000#4 [] []) 0b0000#4 0x107#32 1 [] [] = true := by decide

/-- Spec 95 L2, R160: the target wraps below 0. -/
theorem test_b :
    ends (setup [0xE400#16] 0b0000#4 [] []) 0b0000#4 0xFFFFF909#32 2 [] [] = true := by decide

/-- Spec 95 L2, R161: the smallest offset. -/
theorem test_bl :
    ends (setup [0xF400#16, 0xD000#16] 0b0000#4 [] []) 0b0000#4 0xFF000109#32 3 [(14, 0x105#32)] [] = true := by decide

/-- Spec 95 L2, R161: the largest offset. -/
theorem test_bl_largest :
    ends (setup [0xF3FF#16, 0xD7FF#16] 0b0000#4 [] []) 0b0000#4 0x1000107#32 3 [(14, 0x105#32)] [] = true := by decide

/-- Spec 95 L2, R162. -/
theorem test_bx :
    ends (setup [0x4700#16] 0b0000#4 [(0, 0x201#32)] []) 0b0000#4 0x205#32 2 [(0, 0x201#32)] [] = true := by decide

/-- Spec 95 L2, R162: BX PC. -/
theorem test_bx_pc :
    stops (setup [0x4778#16] 0b0000#4 [] []) (.unsupportedInterworking 0x100#32 0x104#32) = true := by decide

/-- Spec 95 L2, R163: BLX LR. -/
theorem test_blx :
    ends (setup [0x47F0#16] 0b0000#4 [(14, 0x301#32)] []) 0b0000#4 0x305#32 3 [(14, 0x103#32)] [] = true := by decide

/-- Spec 95 L2, R163: no exception return. -/
theorem test_blx_sentinel :
    ends (setup [0x4788#16] 0b0000#4 [(1, 0xFFFFFFF9#32)] []) 0b0000#4 0xFFFFFFFD#32 3 [(14, 0x103#32)] [] = true := by decide

/-! ### Spec 46 -/

/-- By hand from R164. -/
theorem test_adr :
    ends (setup [0xA001#16] 0b0000#4 [] []) 0b0000#4 0x107#32 1 [(0, 0x108#32)] [] = true := by decide

/-- Spec 95 L2, R165. -/
theorem test_add_sp_rd :
    ends (setup [0xA8FF#16] 0b0000#4 [(13, 0x20000000#32)] []) 0b0000#4 0x107#32 1 [(0, 0x200003FC#32)] [] = true := by decide

/-- Spec 95 L2, R166. -/
theorem test_add_sp_imm7 :
    ends (setup [0xB07F#16] 0b0000#4 [(13, 0x20000000#32)] []) 0b0000#4 0x107#32 1 [(13, 0x200001FC#32)] [] = true := by decide

/-- Spec 95 L2, R167. -/
theorem test_sub_sp_imm7 :
    ends (setup [0xB0FF#16] 0b0000#4 [(13, 0x20000000#32)] []) 0b0000#4 0x107#32 1 [(13, 0x1FFFFE04#32)] [] = true := by decide

/-- Spec 95 L2, R168. -/
theorem test_sxth :
    ends (setup [0xB208#16] 0b0000#4 [(1, 0x17FFF#32)] []) 0b0000#4 0x107#32 1 [(0, 0x7FFF#32)] [] = true := by decide

/-- Spec 95 L2, R169. -/
theorem test_sxtb :
    ends (setup [0xB248#16] 0b0000#4 [(1, 0x12345680#32)] []) 0b0000#4 0x107#32 1 [(0, 0xFFFFFF80#32)] [] = true := by decide

/-- Spec 95 L2, R170. -/
theorem test_uxth :
    ends (setup [0xB288#16] 0b0000#4 [(1, 0xFFFF8000#32)] []) 0b0000#4 0x107#32 1 [(0, 0x8000#32)] [] = true := by decide

/-- Spec 95 L2, R171. -/
theorem test_uxtb :
    ends (setup [0xB2C8#16] 0b0000#4 [(1, 0xFFFFFF80#32)] []) 0b0000#4 0x107#32 1 [(0, 0x80#32)] [] = true := by decide

/-- Spec 95 L2, R172. -/
theorem test_rev :
    ends (setup [0xBA08#16] 0b0000#4 [(1, 0x12345678#32)] []) 0b0000#4 0x107#32 1 [(0, 0x78563412#32)] [] = true := by decide

/-- Spec 95 L2, R173. -/
theorem test_rev16 :
    ends (setup [0xBA48#16] 0b0000#4 [(1, 0x12345678#32)] []) 0b0000#4 0x107#32 1 [(0, 0x34127856#32)] [] = true := by decide

/-- Spec 95 L2, R174. -/
theorem test_revsh :
    ends (setup [0xBAC8#16] 0b0000#4 [(1, 0x1280#32)] []) 0b0000#4 0x107#32 1 [(0, 0xFFFF8012#32)] [] = true := by decide

/-- Spec 95 L2, R175: no advance. -/
theorem test_bkpt :
    ends (setup [0xBEAB#16] 0b0000#4 [] []) 0b0000#4 0x105#32 1 [] [] = true := by decide

/-- Spec 95 L2, R176. -/
theorem test_nop :
    ends (setup [0xBF00#16] 0b0000#4 [] []) 0b0000#4 0x107#32 1 [] [] = true := by decide

/-- Spec 95 L2, R177. -/
theorem test_yield :
    ends (systemOn (setup [0xBF10#16] 0b0000#4 [] [])) 0b0000#4 0x107#32 1 [] [] = true := by decide

/-- Spec 95 L2, R178. -/
theorem test_wfe :
    stops (setup [0xBF20#16] 0b0000#4 [] []) (.malformedInstruction 0x100#32 0xBF20#16 none) = true := by decide

/-- Spec 95 L2, R179. -/
theorem test_wfi :
    stops (setup [0xBF30#16] 0b0000#4 [] []) (.malformedInstruction 0x100#32 0xBF30#16 none) = true := by decide

/-- Spec 95 L2, R180. -/
theorem test_sev :
    ends (systemOn (setup [0xBF40#16] 0b0000#4 [] [])) 0b0000#4 0x107#32 1 [] [] = true := by decide

/-- Spec 95 L2, R79: CPSID without SYSTEM_EXT. -/
theorem test_cpsid_without_system :
    stops (setup [0xB672#16] 0b0000#4 [] []) (.malformedInstruction 0x100#32 0xB672#16 none) = true := by decide

/-- Spec 95 L2, R183: MRS of APSR. -/
theorem test_mrs_apsr :
    ends (systemOn (setup [0xF3EF#16, 0x8000#16] 0b1010#4 [] [])) 0b1010#4 0x109#32 3 [(0, 0xA0000000#32)] [] = true := by decide

/-- Spec 95 L2, R183: MRS of MSP. -/
theorem test_mrs_msp :
    ends (systemOn (setup [0xF3EF#16, 0x8208#16] 0b0000#4 [(13, 0x20000100#32)] [])) 0b0000#4 0x109#32 3 [(2, 0x20000100#32)] [] = true := by decide

/-- Spec 95 L2, R184: MSR of APSR. -/
theorem test_msr_apsr :
    ends (systemOn (setup [0xF380#16, 0x8800#16] 0b0000#4 [(0, 0x90000000#32)] [])) 0b1001#4 0x109#32 3 [(0, 0x90000000#32)] [] = true := by decide

/-- Spec 95 L2, R184: MSR of MSP. -/
theorem test_msr_msp :
    ends (systemOn (setup [0xF380#16, 0x8808#16] 0b0000#4 [(0, 0x20000FFF#32)] [])) 0b0000#4 0x109#32 3 [(13, 0x20000FFC#32)] [] = true := by decide

/-- Spec 95 L2, R185. -/
theorem test_dsb :
    ends (systemOn (setup [0xF3BF#16, 0x8F4F#16] 0b1111#4 [] [])) 0b1111#4 0x109#32 3 [] [] = true := by decide

/-- Spec 95 L2, R186. -/
theorem test_dmb :
    ends (systemOn (setup [0xF3BF#16, 0x8F5F#16] 0b1111#4 [] [])) 0b1111#4 0x109#32 3 [] [] = true := by decide

/-- Spec 95 L2, R187. -/
theorem test_isb :
    ends (systemOn (setup [0xF3BF#16, 0x8F6F#16] 0b1111#4 [] [])) 0b1111#4 0x109#32 3 [] [] = true := by decide

/-- Spec 95 L2, R188. -/
theorem test_svc :
    stops (setup [0xDF00#16] 0b0000#4 [] []) (.malformedInstruction 0x100#32 0xDF00#16 none) = true := by decide

/-- Spec 95 L2, R189. -/
theorem test_udf :
    stops (setup [0xDE00#16] 0b0000#4 [] []) (.malformedInstruction 0x100#32 0xDE00#16 none) = true := by decide

/-- Spec 95 L2, R190. -/
theorem test_udf_w :
    stops (setup [0xF7F0#16, 0xA000#16] 0b0000#4 [] []) (.malformedInstruction 0x100#32 0xF7F0#16 (some 0xA000#16)) = true := by decide

/-- Spec 30 R69 with 40 R92: SYSm is the immediate of MRS and of MSR. -/
theorem test_record_sysm_is_immediate :
    (fill (.mrs 3 .primask)).imm = 16#32 ∧ (fill (.mrs 3 .primask)).sysm = 16#8 ∧
    (fill (.msr .control 2)).imm = 20#32 ∧ (fill (.msr .control 2)).rn = 2 := by decide

/-! ### The simulation loop -/

/-- The state under another scheme. -/
def under (p : Policy) (s : State) : State := { s with scheme := { s.scheme with policy := p } }

/-- The scheme that is never active; it never backs up. -/
def neverOn : Policy := .program {}

/-- The scheme that is always active and always backs up: 1 energy an instruction, 1 energy and 2 cycles a backup. -/
def backingUp : Policy :=
  .program { isActive := { answer := .const 1 }, willBackup := { answer := .const 1 }
             executeInstruction := { energy := .const 1 }, backup := { energy := .const 1, cycles := .const 2 } }

/-- An inactive state that stays inactive, with room for 1 of the 2 a cycle offers. -/
def sleeping : State :=
  { under neverOn State.reset with
    battery := { State.reset.battery with charging := .capacity 1 }
    loop := { Loop.reset with rate := 2 } }

/-- The state in an active period under a scheme. -/
def activeUnder (p : Policy) (s : State) : State :=
  { under p s with loop := { s.loop with first := false, power := .active } }

/-- A scheme that counts the calls of `battery()` in cell 0 and of `clock_frequency()` in cell 1, active or not. -/
def counting (active : Quantity) : Policy :=
  .program { isActive := { answer := .const active }
             battery := { memo := [.add (.item (.memo 0)) (.const 1)] }
             clockFrequency := { memo := [.item (.memo 0), .add (.item (.memo 1)) (.const 1)] } }

/-- The cells after a step of a state that starts with both counts 0, with the handle used as given. -/
def cellsAfter (h : Config.HandleUse) (s : State) : Option (List Quantity) :=
  match step { s with scheme := { s.scheme with memo := [0, 0] }, params := { s.params with handle := h } } with
  | .next t => some t.scheme.memo
  | _ => none

/-- The pseudocode of spec 49 R215: an idle tick names `battery` once, for the harvest, and `clock_frequency()` once. -/
theorem test_calls_of_an_idle_tick :
    cellsAfter .once (under (counting 0) sleeping) = some [0, 1] ∧
    cellsAfter .everyUse (under (counting 0) sleeping) = some [1, 1] := by decide +kernel

/-- The pseudocode of spec 49 R215, R223: an active tick names `battery` twice, around `execute_instruction`, and a tick with the exit once
more. -/
theorem test_calls_of_an_active_tick :
    cellsAfter .everyUse (activeUnder (counting 1) (setup [0xBF00#16] 0b0000#4 [] [])) = some [2, 1] ∧
    cellsAfter .everyUse (activeUnder (counting 1) (setup [0xBE00#16] 0b0000#4 [] [])) = some [3, 1] := by decide +kernel

/-- Spec 95 LP1: stored 9 of a capacity of 10, 2 is offered, 1 is accepted. -/
theorem test_idle_tick_harvest :
    (match step { sleeping with battery := { State.reset.battery with stored := 9, charging := .capacity 10 } } with
      | .next t => decide (t.loop.totals.energyHarvested = 1) && decide (t.battery.stored = 10) && t.loop.elapsed == 1
      | _ => false) = true := by decide +kernel

/-- Spec 95 LP5: a tick of 25 cycles at clock frequency 1000 ends at time 1/40 and samples once. -/
theorem test_one_sample_a_tick :
    (match step { sleeping with params := { State.reset.params with idleTickCycles := 25 } } with
      | .next t => decide (t.loop.time = 1 / 40) && decide (t.loop.nextSample = 2 / 100)
      | _ => false) = true := by decide +kernel

/-- The scheme of spec 95 program P5: it backs up when the instructions of the period are a multiple of 4, and 1 energy is asked for each
cycle of an instruction. -/
def everyFourth : Policy :=
  .program { isActive := { answer := .const 1 }
             willBackup := { answer := .cond (.mod (.item (.period 0 .instructions)) (.const 4)) (.const 0) (.const 1) }
             executeInstruction := { energy := .item .cycles } }

/-- A state of that scheme in a period of `n` instructions. -/
def inPeriod (n : Nat) : State :=
  (under everyFourth State.reset).setCur { Period.new with instructions := n }

/-- Spec 49 R205, R213, 95 P5: `will_backup` reads the statistics it is given. -/
theorem test_will_backup_reads_statistics :
    (inPeriod 8).willBackup.1 = true ∧ (inPeriod 9).willBackup.1 = false := by decide +kernel

/-- Spec 49 R205: `execute_instruction` is given the cycles of the instruction. -/
theorem test_execute_instruction_reads_cycles :
    { under everyFourth State.reset with
      battery := { State.reset.battery with stored := 40 }, stepCycles := 3 }.executeInstruction.battery.stored = 37 := by
  decide +kernel

/-! ### Witnesses: a state and operands that meet the hypotheses of each obligation, clause by clause -/

/-- Reset memory with the vector 9. -/
def vectorNine : State := State.reset.setMem (State.reset.mem.store 4#32 .word 9#32)

/-- A machine whose regions are this many bytes long. -/
def sized (rom ram : Nat) : State :=
  { State.reset with params := { State.reset.params with romSize := rom, ramSize := ram } }

theorem witness_ResetValues :
    (State.reset.params.legal ∧ 8 ≤ State.reset.params.romSize ∧ (State.reset.word 4#32).getLsbD 0 = false) ∧
    (vectorNine.params.legal ∧ 8 ≤ vectorNine.params.romSize ∧ (vectorNine.word 4#32).getLsbD 0 = true) ∧
    ((sized 8 4).params.legal ∧ 8 ≤ (sized 8 4).params.romSize) ∧
    ((sized 4 4).params.legal ∧ (sized 4 4).params.romSize < 8) ∧ (14 : Reg) ≠ 13 ∧ (14 : Reg) ≠ 15 := by decide

theorem witness_ImageLoad :
    (sized 4 4).params.legal ∧ (sized 4 4).params.romSize < (List.replicate 5 1#8).length ∧
    (List.replicate 4 1#8).length ≤ (sized 4 4).params.romSize ∧ (List.replicate 3 1#8).length ≤ 3 ∧
    3 < (sized 4 4).params.romSize ∧ 3 < (sized 4 4).params.ramSize := by decide

theorem witness_BootOrder :
    (∃ f, loadImage (sized 4 4).params none (fun _ => 0#8) (fun _ => 0#8) = .error f) ∧
    (∃ m f, loadImage (sized 4 4).params (some []) (fun _ => 0#8) (fun _ => 0#8) = .ok m ∧
      resetCpu false ((sized 4 4).setMem m) = .error f) ∧
    (∃ m u, loadImage (sized 8 4).params (some []) (fun _ => 0#8) (fun _ => 0#8) = .ok m ∧
      resetCpu false ((sized 8 4).setMem m) = .ok u) :=
  ⟨⟨_, rfl⟩, ⟨_, _, rfl, rfl⟩, ⟨_, _, rfl, rfl⟩⟩

theorem witness_DecodeOfEncode :
    (Instr.stm 1 0b110#8).WellFormed ∧ (Instr.cmpHi 8 14).WellFormed ∧ (Instr.msr .control 14).WellFormed := by decide

theorem witness_EncodeOfDecode :
    ((none : Option Half).isSome = isWide 0x2105#16 ∧ decode 0x2105#16 none = .ok (.movsImm 1 5#8)) ∧
    ((some 0x8808#16 : Option Half).isSome = isWide 0xF380#16 ∧
      decode 0xF380#16 (some 0x8808#16) = .ok (.msr .msp 0)) := by decide

theorem witness_InstructionWidth :
    fetch (setup [0xE7FE#16] 0b0000#4 [] []) = .ok (0xE7FE#16, none) ∧
    fetch (setup [0xE800#16, 0x1234#16] 0b0000#4 [] []) = .ok (0xE800#16, some 0x1234#16) := ⟨rfl, rfl⟩

theorem witness_UndefinedEncodingsRefused :
    ((0x63#8 : BitVec 8) ≠ 0x62#8 ∧ (0x63#8 : BitVec 8) ≠ 0x72#8) ∧ (8#4 : BitVec 4) ≠ 0#4 ∧
    ((0xF3BF#16 : Half).extractLsb' 11 5 = 0b11110#5 ∧
      (0xF3BF#16 ++ 0x8F40#16) &&& 0xF800D000#32 ≠ 0xF000D000#32 ∧
      (0xF3BF#16 ++ 0x8F40#16) &&& 0xFFF0FF00#32 ≠ 0xF3808800#32 ∧
      (0xF3BF#16 ++ 0x8F40#16) &&& 0xFFFFF000#32 ≠ 0xF3EF8000#32 ∧ 0xF3BF#16 ++ 0x8F40#16 ≠ 0xF3BF8F4F#32 ∧
      0xF3BF#16 ++ 0x8F40#16 ≠ 0xF3BF8F5F#32 ∧ 0xF3BF#16 ++ 0x8F40#16 ≠ 0xF3BF8F6F#32 ∧
      (0xF3BF#16 ++ 0x8F40#16) &&& 0xFFF0F000#32 ≠ 0xF7F0A000#32) ∧ (1#3 : BitVec 3) ≠ 0#3 := by decide

theorem witness_UnpredictableEncodingsRefused :
    ((7 : Reg).val < 8 ∧ (0 : Reg).val < 8) ∧
    ((0b11#8 : BitVec 8).getLsbD (1 : LowReg).val = true ∧ (0b11#8 : BitVec 8).getLsbD (0 : LowReg).val = true ∧
      (0 : LowReg) < 1) ∧
    ((0b110#3 : BitVec 3) = 0b110#3 ∧ (0b1110#4 : BitVec 4) ≠ 0b1111#4) ∧
    ((0x8908#16 : Half).extractLsb' 14 2 = 0b10#2 ∧ (0x8908#16 : Half).extractLsb' 12 1 = 0#1 ∧
      (0x8908#16 : Half).extractLsb' 8 8 ≠ 0b10001000#8) ∧ (0b1110#4 : BitVec 4) ≠ 0b1111#4 := by decide

/-- The last word of each region, the first address after it, a misaligned one, and the fetch at a region's end. -/
theorem witness_MemoryReads :
    State.reset.params.legal ∧ (0xFFE#32 : Word).toNat % Width.word.bytes ≠ 0 ∧
    ((0x1000#32 : Word).toNat % Width.word.bytes = 0 ∧ mapped State.reset.params (0x1000#32 : Word).toNat = false) ∧
    ((0x20000FFC#32 : Word).toNat % Width.word.bytes = 0 ∧
      mapped State.reset.params (0x20000FFC#32 : Word).toNat = true) ∧
    (mapped State.reset.params (0xFFF#32 : Word).toNat = true ∧
      mapped State.reset.params (0xFFF#32 + 1#32 : Word).toNat = false) ∧
    (mapped State.reset.params (0xFFE#32 : Word).toNat = true ∧
      mapped State.reset.params (0xFFE#32 + 1#32 : Word).toNat = true) := by decide

theorem witness_MemoryWrites :
    State.reset.params.legal ∧ State.reset.mem.wf ∧ (0x20000001#32 : Word).toNat % Width.half.bytes ≠ 0 ∧
    ((0xFFC#32 : Word).toNat % Width.word.bytes = 0 ∧ inData State.reset.params (0xFFC#32 : Word).toNat = false) ∧
    ((0x20000FFC#32 : Word).toNat % Width.word.bytes = 0 ∧
      inData State.reset.params (0x20000FFC#32 : Word).toNat = true) := by decide

/-- SP at the top of the data region, r1 at its start, r2 at its last word; the words 0x201 and 9 at SP - 8. -/
def working : State :=
  setup [0xBF00#16] 0b0000#4 [(1, 0x20000000#32), (2, 0x20000FFC#32), (13, 0x20000FF8#32), (14, 0x201#32)]
    [(0x20000FF8#32, 0x201#32), (0x20000FFC#32, 9#32)]

theorem witness_OnlyDataRegionWritten :
    working.mem.wf ∧ (∃ t, exec (.strImm 0 2 0#5) working = .next t) ∧ inData working.params 0x20001000 = false :=
  ⟨by decide, exists_of_completes (by decide), by decide⟩

theorem witness_ComparisonsWriteFlagsOnly :
    (((7 : Reg).val < 8 ∧ (7 : Reg).val < 8) ∨ (7 : Reg) = 15 ∨ (7 : Reg) = 15) ∧
    ¬(((8 : Reg).val < 8 ∧ (7 : Reg).val < 8) ∨ (8 : Reg) = 15 ∨ (7 : Reg) = 15) := by decide

theorem witness_HighRegister : ¬((15 : Reg) = 15 ∧ (14 : Reg) = 15) ∧ (14 : Reg) ≠ 15 := by decide

/-- The last readable word, halfword and byte; the literal base is mapped. -/
theorem witness_LoadsCompleteOrFault :
    working.params.legal ∧ mapped working.params (pcAddr working 0#8).toNat = true ∧
    readable working (regOffsetAddr working 2 0) .word ∧ readable working (wordImmAddr working 2 0#5) .word ∧
    readable working (halfImmAddr working 2 1#5) .half ∧ readable working (byteImmAddr working 2 3#5) .byte ∧
    readable working (regOffsetAddr working 2 0) .half ∧ readable working (regOffsetAddr working 2 0) .byte ∧
    readable working (spAddr working 1#8) .word := by decide

theorem witness_StoresCompleteOrFault :
    working.params.legal ∧ working.mem.wf ∧ writable working (regOffsetAddr working 2 0) .word ∧
    writable working (regOffsetAddr working 2 0) .half ∧ writable working (regOffsetAddr working 2 0) .byte ∧
    writable working (wordImmAddr working 2 0#5) .word ∧ writable working (byteImmAddr working 2 3#5) .byte ∧
    writable working (halfImmAddr working 2 1#5) .half ∧ writable working (spAddr working 1#8) .word := by decide

/-- The faults of a load and a store: a misaligned address, and the word after the data region. -/
theorem witness_LoadsCompleteOrFault_StoresCompleteOrFault_faults :
    (wordImmAddr (working.setX 1 0x20000002#32) 1 1#5).toNat % Width.word.bytes ≠ 0 ∧
    ((wordImmAddr working 2 1#5).toNat % Width.word.bytes = 0 ∧
      mapped working.params (wordImmAddr working 2 1#5).toNat = false) ∧
    ((wordImmAddr working 0 1#5).toNat % Width.word.bytes = 0 ∧
      inData working.params (wordImmAddr working 0 1#5).toNat = false) := by decide

/-- The faults of a transfer of two words: a misaligned base, and a second word after the data region. -/
theorem witness_LoadMultiple_StoreMultiple_faults :
    ((0b11#8 : BitVec 8) ≠ 0#8 ∧ ((working.setX 1 0x20000002#32).x (lo 1)).toNat % 4 ≠ 0) ∧
    (1 < bitCount 0b11#8 ∧ (working.x (lo 2)).toNat % 4 = 0 ∧ wordsReadable working (working.x (lo 2)) 1 ∧
      mapped working.params (wordAddr (working.x (lo 2)) 1).toNat = false) ∧
    (wordsWritable working (working.x (lo 2)) 1 ∧
      inData working.params (wordAddr (working.x (lo 2)) 1).toNat = false) := by decide

theorem witness_StoreMultiple :
    working.params.legal ∧ working.mem.wf ∧
    ((0b110#8 : BitVec 8) ≠ 0#8 ∧ ((0b110#8 : BitVec 8).getLsbD (1 : LowReg).val = true →
      ∀ j : LowReg, j < 1 → (0b110#8 : BitVec 8).getLsbD j.val = false)) ∧
    ((0b11#8 : BitVec 8).getLsbD (1 : LowReg).val = true ∧ (0b11#8 : BitVec 8).getLsbD (0 : LowReg).val = true ∧
      (0 : LowReg) < 1) ∧
    wordsWritable working (working.x (lo 1)) (bitCount 0b110#8) := by decide

theorem witness_LoadMultiple :
    working.params.legal ∧ (0b10#8 : BitVec 8) ≠ 0#8 ∧ wordsReadable working (working.x (lo 1)) (bitCount 0xFF#8) ∧
    (0b1#8 : BitVec 8).getLsbD (1 : LowReg).val = false := by decide

/-- PUSH of nine words; one with a misaligned SP; one that runs below the data region at its first word. -/
theorem witness_PushStoresBelowSp :
    working.params.legal ∧ working.mem.wf ∧ 9 = bitCount 0xFF#8 + true.toNat ∧
    wordsWritable working (working.x 13 - BitVec.ofNat 32 (4 * 9)) 9 ∧
    (let s := (wholeTop .faults working).setX 13 0#32
     s.params.legal ∧ s.x 13 = 0 ∧ s.params.pushAtZero = .faults ∧
      wordsWritable s (s.x 13 - BitVec.ofNat 32 (4 * 9)) 9) ∧
    (let s := (wholeTop .stores working).setX 13 0#32
     s.params.legal ∧ ¬(s.x 13 = 0 ∧ s.params.pushAtZero = .faults) ∧
      wordsWritable s (s.x 13 - BitVec.ofNat 32 (4 * 9)) 9) ∧
    (let s := working.setX 13 0#32
     s.x 13 = 0 ∧ Config.ramBase + s.params.ramSize < 2 ^ 32) ∧
    ((working.setX 13 0x20000102#32).x 13).toNat % 4 ≠ 0 ∧
    (((working.setX 13 0x20000000#32).x 13).toNat % 4 = 0 ∧
      wordsWritable (working.setX 13 0x20000000#32) ((working.setX 13 0x20000000#32).x 13 - BitVec.ofNat 32 (4 * 1)) 0 ∧
      inData working.params
        (wordAddr ((working.setX 13 0x20000000#32).x 13 - BitVec.ofNat 32 (4 * 1)) 0).toNat = false) := by decide

/-- The state of the exception-return vector of spec 95 with its frame at 0x20000104. -/
def framed : State :=
  setup [0xBD00#16] 0b0000#4 [(0, 0xFFFFFFF9#32), (13, 0x20000100#32)]
    [(0x20000100#32, 0xFFFFFFF9#32), (0x2000011C#32, 0x300#32), (0x20000120#32, 0x01000000#32)]

theorem witness_PopLoadsFromSp :
    working.params.legal ∧ 2 = bitCount 0b1#8 + true.toNat ∧ wordsReadable working (working.x 13) 2 ∧
    ((working.word (wordAddr (working.x 13) (bitCount 0#8))).extractLsb' 28 4 ≠ 0xF#4 ∧
      (working.word (wordAddr (working.x 13) (bitCount 0#8))).getLsbD 0 = true) ∧
    (let s := working.setMem (working.mem.store 0x20000FF8#32 .word 0x200#32)
     (s.word (wordAddr (s.x 13) (bitCount 0#8))).extractLsb' 28 4 ≠ 0xF#4 ∧
      (s.word (wordAddr (s.x 13) (bitCount 0#8))).getLsbD 0 = false ∧ wordsReadable s (s.x 13) 1) ∧
    ((framed.word (wordAddr (framed.x 13) (bitCount 0#8))).extractLsb' 28 4 = 0xF#4 ∧
      wordsReadable framed (framed.x 13) 1 ∧ wordsReadable framed (framed.x 13 + BitVec.ofNat 32 (4 * 1)) 8 ∧
      (framed.word (wordAddr (framed.x 13 + BitVec.ofNat 32 (4 * 1)) 7)).getLsbD 24 = true) ∧
    ((working.setX 13 0x20000102#32).x 13).toNat % 4 ≠ 0 ∧
    (wordsReadable working (working.x 13) 2 ∧ 2 < bitCount 0b11#8 + true.toNat ∧ (working.x 13).toNat % 4 = 0 ∧
      mapped working.params (wordAddr (working.x 13) 2).toNat = false) := by decide

theorem witness_PushThenPop :
    working.params.legal ∧ working.mem.wf ∧ (∃ t, exec (.push true 0b110#8) working = .next t) ∧
    ((working.x 14).extractLsb' 28 4 ≠ 0xF#4 ∧ (working.x 14).getLsbD 0 = true) :=
  ⟨by decide, by decide, exists_of_completes (by decide), by decide⟩

theorem witness_BranchesToSignedOffset :
    conditionPassed .eq (setup [0xD0FE#16] 0b0100#4 [] []).cpu.flags = true ∧
    conditionPassed .eq (setup [0xD0FE#16] 0b0000#4 [] []).cpu.flags = false := by decide

theorem witness_IndirectBranches :
    ((working.x 14).extractLsb' 28 4 ≠ 0xF#4 ∧ (working.x 14).getLsbD 0 = true) ∧
    ((working.x 15).extractLsb' 28 4 ≠ 0xF#4 ∧ (working.x 15).getLsbD 0 = false) ∧
    (framed.x 0).extractLsb' 28 4 = 0xF#4 ∧ ((working.setPcReg 0xF0000005#32).x 15).extractLsb' 28 4 = 0xF#4 ∧
    (14 : Reg) ≠ 15 := by decide

/-- A frame that ends with the data region, one with a status word 0, a misaligned one, and one whose last word lies past the region. -/
theorem witness_ExceptionReturn :
    framed.params.legal ∧ (framed.x 0).extractLsb' 28 4 = 0xF#4 ∧
    (let s := framed.setX 13 0x20000104#32
     wordsReadable s (s.x 13) 8 ∧ (s.word (wordAddr (s.x 13) 7)).getLsbD 24 = true) ∧
    (let s := framed.setX 13 0x20000FE0#32
     wordsReadable s (s.x 13) 8 ∧ (s.word (wordAddr (s.x 13) 7)).getLsbD 24 = false) ∧
    ((framed.setX 13 0x20000102#32).x 13).toNat % 4 ≠ 0 ∧
    (let s := framed.setX 13 0x20000FE4#32
     (s.x 13).toNat % 4 = 0 ∧ wordsReadable s (s.x 13) 7 ∧ mapped s.params (wordAddr (s.x 13) 7).toNat = false) := by
  decide

theorem witness_ExitAndNop :
    ((0xBEFF#16 : Half) &&& 0xFF00#16 = 0xBE00#16) ∧
    ((setup [0xBE05#16] 0b0000#4 [] []).cpu.pcReg.getLsbD 0 = true ∧
      fetch (setup [0xBE05#16] 0b0000#4 [] []) = .ok (0b10111110#8 ++ 5#8, none)) ∧
    ((setup [0xBF00#16] 0b0000#4 [] []).cpu.pcReg.getLsbD 0 = true ∧
      fetch (setup [0xBF00#16] 0b0000#4 [] []) = .ok (0xBF00#16, none)) :=
  ⟨by decide, ⟨by decide, rfl⟩, by decide, rfl⟩

theorem witness_HintsBarriersCps :
    (systemOn State.reset).params.systemExt = true ∧ State.reset.params.systemExt = false ∧
    ((0b100#3 : BitVec 3) = 0b100#3 ∧ (0#4 : BitVec 4) ≠ 0b1111#4) := by decide

theorem witness_ReadSpecialRegister :
    (systemOn State.reset).params.systemExt = true ∧ State.reset.params.systemExt = false ∧
    ((14 : Reg) ≠ 13 ∧ (14 : Reg) ≠ 15) ∧ (∀ q, (9#8 : BitVec 8) ≠ sysmField q) :=
  ⟨by decide, by decide, by decide, fun q => by cases q <;> decide⟩

theorem witness_WriteSpecialRegister :
    (systemOn working).params.systemExt = true ∧ working.params.systemExt = false ∧ 0x20000000#32 = working.x 1 ∧
    (working.x 1).getLsbD 1 = false ∧ ((working.setX 1 3#32).x 1).getLsbD 1 = true := by decide

theorem witness_FaultsBeforeExecute :
    (working.setPcReg 0x104#32).cpu.pcReg.getLsbD 0 = false ∧
    ((working.setPcReg 0x10000005#32).cpu.pcReg.getLsbD 0 = true ∧
      (∃ f, fetchHalf (working.setPcReg 0x10000005#32) (working.setPcReg 0x10000005#32).addr = .error f)) ∧
    (let s := (place [0xF000#16] 0xFFE#32 State.reset).setPcReg 0x1003#32
     s.cpu.pcReg.getLsbD 0 = true ∧ fetchHalf s s.addr = .ok 0xF000#16 ∧ isWide 0xF000#16 = true ∧
      ∃ f, fetchHalf s (s.addr + 2#32) = .error f) ∧
    (let s := setup [0xE800#16] 0b0000#4 [] []
     fetchHalf s s.addr = .ok 0xE800#16 ∧ fetchHalf s (s.addr + 2#32) = .ok 0#16 ∧
      refusedWord 0xE800#16 (some 0#16)) ∧
    (let s := setup [0x44FF#16] 0b0000#4 [] []
     fetchHalf s s.addr = .ok 0x44FF#16 ∧ isWide 0x44FF#16 = false ∧ refusedWord 0x44FF#16 none) :=
  ⟨by decide, ⟨by decide, _, rfl⟩, ⟨by decide, rfl, by decide, _, rfl⟩, ⟨rfl, rfl, _, rfl⟩, rfl, by decide, _, rfl⟩

/-- A NOP at the current instruction; the tick activates. -/
theorem witness_StepRunsDecodedInstruction :
    (working.cpu.pcReg.getLsbD 0 = true ∧ fetch working = .ok (0xBF00#16, none) ∧ decode 0xBF00#16 none = .ok .nop ∧
      ∃ t, exec .nop (working.setBranchTaken false) = .next t) ∧
    (let s := setup [0xDF00#16] 0b0000#4 [] []
     fetch s = .ok (0xDF00#16, none) ∧ decode 0xDF00#16 none = .ok (.svc 0#8) ∧
      ∃ f, exec (.svc 0#8) (s.setBranchTaken false) = .fault f) ∧
    (working.exitFlag = false ∧ ∃ r c, transition working = .ok (r, c) ∧ r.loop.power = .active ∧
      ∃ t, cpuStep r = .next t) :=
  ⟨⟨by decide, rfl, by decide, _, rfl⟩, ⟨rfl, by decide, _, rfl⟩, by decide, _, _, rfl, rfl,
    exists_of_completes (by decide)⟩

/-- A BKPT, a taken branch and a plain instruction. -/
theorem witness_AdvanceByWidthOrBranch :
    (let s := setup [0xBE00#16] 0b0000#4 [] []
     s.cpu.pcReg.getLsbD 0 = true ∧ fetch s = .ok (0xBE00#16, none) ∧ decode 0xBE00#16 none = .ok (.bkpt 0#8) ∧
      ∃ u, exec (.bkpt 0#8) (s.setBranchTaken false) = .next u) ∧
    (let s := setup [0xE7FE#16] 0b0000#4 [] []
     s.cpu.pcReg.getLsbD 0 = true ∧ fetch s = .ok (0xE7FE#16, none) ∧ decode 0xE7FE#16 none = .ok (.b 0x7FE#11) ∧
      ∃ u, exec (.b 0x7FE#11) (s.setBranchTaken false) = .next u ∧ u.branchTaken = true ∧
        u.cpu.pcReg = (0x100#32 &&& 0xFFFFFFFE#32) ||| 1#32) ∧
    (working.cpu.pcReg.getLsbD 0 = true ∧ fetch working = .ok (0xBF00#16, none) ∧ decode 0xBF00#16 none = .ok .nop ∧
      ∃ u, exec .nop (working.setBranchTaken false) = .next u ∧ u.branchTaken = false) :=
  ⟨⟨by decide, rfl, by decide, _, rfl⟩, ⟨by decide, rfl, by decide, _, rfl, rfl, by decide⟩, by decide, rfl, by decide,
    _, rfl, rfl⟩

theorem witness_ThumbBitKept : ∃ t, cpuStep working = .next t := exists_of_completes (by decide)

/-- Two states with one CPU State and memory, and different batteries. -/
theorem witness_CoreIsAFunctionOfCpuAndMemory :
    let s' : State := { working with battery := { State.reset.battery with stored := 7 }, branchTaken := true, stepCycles := 9 }
    s'.cpu = working.cpu ∧ s'.mem = working.mem ∧ s'.params = working.params ∧ s'.exitFlag = working.exitFlag ∧
      s' ≠ working ∧ ∃ t, cpuStep working = .next t :=
  ⟨rfl, rfl, rfl, rfl, by decide, exists_of_completes (by decide)⟩

/-- CPSID with SYSTEM_EXT changes PM; an exception return in Handler mode changes the mode; NOP is no exception return. -/
theorem witness_StatusWriters :
    (∃ t, exec .cpsid (systemOn working) = .next t ∧ t.cpu.primask ≠ (systemOn working).cpu.primask) ∧
    (let s := (framed.setMode .handler).setX 13 0x20000104#32
     ∃ t, exec (.bx 0) s = .next t ∧ t.cpu.mode ≠ s.cpu.mode) ∧
    (¬returnsFromException .nop working ∧ writesNZCV .nop = false ∧ writesNZC .nop = false ∧ writesNZ .nop = false) :=
  ⟨⟨_, rfl, by decide⟩, exists_next (by decide +kernel), (by rintro ⟨target, h, _⟩; cases h), by decide⟩

/-- A refused row, an interworking fault, a misaligned load, a store to the program region, a load past the data region, a PUSH at SP = 0, and an exception
return of BX and of POP whose status word is 0. -/
theorem witness_FaultCauses :
    (∃ f, exec (.svc 0#8) working = .fault f) ∧ (∃ f, exec (.bx 15) working = .fault f) ∧
    (∃ f, exec (.ldrImm 0 1 1#5) (working.setX 1 0x20000002#32) = .fault f) ∧
    (∃ f, exec (.strImm 0 0 0#5) working = .fault f) ∧
    exec (.ldrImm 0 2 1#5) working = .fault (.memoryFault 0x20001000#32 4 .read) ∧
    exec (.push true 0#8) ((wholeTop .faults working).setX 13 0#32) = .fault (.memoryFault 0xFFFFFFFC#32 4 .write) ∧
    exec (.bx 0) (framed.setX 13 0x20000FE0#32) = .fault (.modeViolation 4#32) ∧
    exec (.pop true 0#8) (framed.setMem (framed.mem.store 0x20000120#32 .word 0#32)) =
      .fault (.modeViolation 0x304#32) :=
  ⟨⟨_, rfl⟩, ⟨_, rfl⟩, ⟨_, rfl⟩, ⟨_, rfl⟩, eq_fault (by decide +kernel), eq_fault (by decide +kernel),
    eq_fault (by decide +kernel), eq_fault (by decide +kernel)⟩

/-- A full slot to restore from, an empty one, and a scheme with the costs of the reference scheme. -/
theorem witness_BackupAndRestore :
    State.reset.scheme.slot = none ∧ State.reset.backup.2.scheme.slot = some State.reset.cpu ∧
    ∃ p, State.reset.scheme.policy = .program p ∧ p.reference :=
  ⟨rfl, rfl, _, rfl, by decide +kernel⟩

/-- Two states that differ in memory, `pending` signals and the loop's own counts, and agree in what a scheme is given. -/
theorem witness_SchemeCalls :
    let s := under everyFourth working
    let s' : State := { s with
      mem := [], branchTaken := true, exitFlag := true, loop := { s.loop with noProgress := 3, voltage := 9 } }
    s'.scheme = s.scheme ∧ s'.battery = s.battery ∧ s'.num = s.num ∧ s'.cpu = s.cpu ∧ s'.stats = s.stats ∧
      s'.stepCycles = s.stepCycles ∧ s' ≠ s :=
  ⟨rfl, rfl, rfl, rfl, rfl, rfl, fun h => by cases congrArg State.exitFlag h⟩

/-- The first activation, and a later one with a full slot and with an empty one. -/
theorem witness_Activation :
    let s' : State := { State.reset with loop := { Loop.reset with first := false } }
    (State.reset.loop.power = .inactive ∧ State.reset.isActive.1 = true ∧ State.reset.loop.first = true) ∧
    (s'.loop.power = .inactive ∧ s'.isActive.1 = true ∧ s'.loop.first = false ∧ s'.scheme.slot = none) ∧
    (s'.backup.2.loop.power = .inactive ∧ s'.backup.2.isActive.1 = true ∧ s'.backup.2.loop.first = false ∧
      s'.backup.2.scheme.slot = some s'.cpu) := by decide +kernel

theorem witness_Deactivation :
    let off := activeUnder neverOn State.reset
    let fifth : State := off.setNoProgress 4
    let backed : State := fifth.setCur { Period.new with backups := 1 }
    (off.exitFlag = false ∧ off.loop.power = .active ∧ off.isActive.1 = false ∧ off.loop.noProgress + 1 < 5) ∧
    (fifth.exitFlag = false ∧ fifth.loop.power = .active ∧ fifth.isActive.1 = false ∧ fifth.loop.cur.backups = 0 ∧
      5 ≤ fifth.loop.noProgress + 1) ∧
    (backed.exitFlag = false ∧ backed.loop.power = .active ∧ backed.isActive.1 = false ∧
      backed.loop.cur.backups ≠ 0) := by decide +kernel

/-- `will_backup` as it is asked after a step and its accounting. -/
def asksBackup (s : State) : Bool :=
  match cpuStep s.isActive.2 with
  | .next u => (accountInstr u).willBackup.1
  | _ => false

/-- A NOP and a BKPT, without and with a backup; the other variables of the statement are what its equations give. -/
theorem witness_ActiveTick :
    (let s := activeUnder .alwaysOn working
     s.exitFlag = false ∧ s.loop.power = .active ∧ s.isActive.1 = true ∧ asksBackup s = false ∧
      ∃ u, cpuStep s.isActive.2 = .next u ∧ u.exitFlag = false) ∧
    (let s := activeUnder backingUp (setup [0xBE00#16] 0b0000#4 [] [])
     s.exitFlag = false ∧ s.loop.power = .active ∧ s.isActive.1 = true ∧ asksBackup s = true ∧
      ∃ u, cpuStep s.isActive.2 = .next u ∧ u.exitFlag = true) :=
  ⟨⟨rfl, rfl, by decide +kernel, by decide +kernel, exists_next (by decide +kernel)⟩,
    rfl, rfl, by decide +kernel, by decide +kernel, exists_next (by decide +kernel)⟩

theorem witness_IdleTick :
    sleeping.exitFlag = false ∧ sleeping.loop.power = .inactive ∧ sleeping.isActive.1 = false := by decide +kernel

/-- A tick that ends inactive, without a sample; one that ends active; one that samples; exact arithmetic. -/
theorem witness_TickEnd :
    (sleeping.exitFlag = false ∧ ∃ t, step sleeping = .next t ∧ t.loop.power = .inactive ∧
      sleeping.num.le sleeping.loop.nextSample t.loop.time = false) ∧
    (∃ t, step (activeUnder .alwaysOn working) = .next t ∧ t.loop.power = .active ∧
      working.params.alwaysHarvest = false) ∧
    (let s : State := { sleeping with params := { sleeping.params with idleTickCycles := 25 } }
     ∃ t, step s = .next t ∧ s.num.le s.loop.nextSample t.loop.time = true) ∧
    sleeping.num = .rational ∧ 0 ≤ sleeping.loop.rate :=
  ⟨⟨rfl, exists_next (by decide +kernel)⟩, exists_next (by decide +kernel), exists_next (by decide +kernel), rfl,
    by decide +kernel⟩

theorem witness_EnergyConserved :
    sleeping.num = .rational ∧ (∃ t, step sleeping = .next t) ∧ 0 ≤ sleeping.loop.rate ∧ 0 ≤ sleeping.battery.stored :=
  ⟨rfl, exists_of_completes (by decide +kernel), by decide +kernel, by decide +kernel⟩

theorem witness_ElapsedAccounted :
    (sleeping.exitFlag = false ∧ ∃ t, step sleeping = .next t ∧ t.loop.power = .inactive) ∧
    (∃ t, step (activeUnder .alwaysOn working) = .next t ∧ t.loop.power = .active) :=
  ⟨⟨rfl, exists_next (by decide +kernel)⟩, exists_next (by decide +kernel)⟩

theorem exists_bound {o : RunOutcome} (h : (match o with | .boundReached _ => true | _ => false) = true) :
    ∃ t, o = .boundReached t := by
  cases o with
  | boundReached t => exact ⟨t, rfl⟩
  | completed s => cases h
  | fatal f => cases h
  | refused r => cases h

theorem neverOn_never : neverOn.NeverBacksUp := fun _ _ _ => by
  simp [neverOn, Policy.reply, Program.method, Method.reply, Expr.eval]

theorem backingUp_always : backingUp.AlwaysBacksUp := fun _ _ _ => by
  simp [backingUp, Policy.reply, Program.method, Method.reply, Expr.eval]

/-- An active state of its `n`-th period under a scheme that never backs up, about to end it. -/
def ending (n : Nat) : State :=
  let s := (activeUnder neverOn State.reset).setNoProgress (n - 1)
  { s with loop := { s.loop with finished := List.replicate (n - 1) Period.new } }

theorem ending_unbacked (n : Nat) (h : 1 ≤ n ∧ n ≤ 5) : (ending n).Unbacked where
  never := neverOn_never
  noBackup := rfl
  limit := by show n - 1 < 5; omega
  active _ := ⟨rfl, by simp [ending, Loop.periods, activeUnder, State.setNoProgress]⟩
  ended h := by cases h
  unstarted h := by cases h

/-- The first and the fifth period, each ended by the next tick; a state that always backs up; one that ends no period. -/
theorem witness_ForwardProgressCounts :
    ((under neverOn State.reset).scheme.policy.NeverBacksUp ∧ (under backingUp State.reset).scheme.policy.AlwaysBacksUp) ∧
    ((ending 1).Unbacked ∧ (ending 1).endsPeriod ∧ (ending 1).loop.periods.length < 5 ∧
      ∃ t, step (ending 1) = .next t) ∧
    ((ending 5).Unbacked ∧ (ending 5).endsPeriod ∧ (ending 5).loop.periods.length = 5 ∧
      ∃ p e, step (ending 5) = .fault (.noForwardProgress p e)) ∧
    (let s := (activeUnder backingUp State.reset).setCur { Period.new with backups := 1 }
     s.Backed ∧ s.loop.noProgress = 0) ∧
    (sleeping.loop.noProgress = 0 ∧ ¬sleeping.endsPeriod ∧ ∃ t, step sleeping = .next t) :=
  ⟨⟨neverOn_never, backingUp_always⟩,
    ⟨ending_unbacked 1 (by decide), by decide +kernel, by decide, exists_of_completes (by decide +kernel)⟩,
    ⟨ending_unbacked 5 (by decide), by decide +kernel, by decide, 5, 0, eq_fault (by decide +kernel)⟩,
    ⟨⟨backingUp_always, fun _ => by decide⟩, rfl⟩,
    rfl, by decide +kernel, exists_of_completes (by decide +kernel)⟩

/-- A scheme that never backs up and one that always does; the bound 1 is reached by an idle tick and by an active one. -/
theorem witness_ForwardProgressLiveness :
    sleeping.exitFlag = false ∧ sleeping.scheme.policy.NeverBacksUp ∧
    (∃ t, runTicks 1 (initLoop sleeping) = .boundReached t) ∧
    (under backingUp working).scheme.policy.AlwaysBacksUp ∧
    ((match runTicks 1 (initLoop (under backingUp working)) with
      | .boundReached t => decide (t.loop.power = .active) && decide (t.loop.cur.backups = 1)
      | _ => false) = true) :=
  ⟨rfl, neverOn_never, exists_bound (by decide +kernel), backingUp_always, by decide +kernel⟩

/-- A branch to itself under a scheme that is on and off by turns, by a cell of its private state, and never backs up: its fifth period
is on at tick 9. -/
def turning : State :=
  { setup [0xE7FE#16] 0b0000#4 [] [] with
    scheme :=
      { slot := none
        policy := .program { isActive :=
          { answer := .item (.memo 0), memo := [.sub (.const 1) (.item (.memo 0))] } }
        memo := [1]
        clockFrequency := 1 } }

theorem turning_never : turning.scheme.policy.NeverBacksUp := fun _ _ _ => by
  simp [turning, Policy.reply, Program.method, Method.reply, Expr.eval]

theorem witness_ForwardProgressLiveness_fifth_period :
    turning.scheme.policy.NeverBacksUp ∧
    ((match runTicks 9 (initLoop turning) with
      | .boundReached t => decide t.endsPeriod && decide (t.loop.periods.length = 5)
      | _ => false) = true) ∧
    (∀ k t, k ≤ 0 → runTicks k (initLoop turning) = .boundReached t → t.endsPeriod → t.loop.cur.backups ≠ 0) :=
  ⟨turning_never, by decide +kernel, by
    intro k t hk h hp
    obtain rfl : k = 0 := by omega
    cases h; cases hp.2.1⟩

/-- The invariant holds of a state that steps. -/
theorem witness_StepKeepsInvariant : sleeping.Inv ∧ ∃ t, step sleeping = .next t :=
  ⟨{ paramsLegal := by decide, memWf := by decide, memMapped := by decide, cpuInert := by decide
     slotInert := by intro c h; cases h
     collaborators := ⟨by decide +kernel,
       fun _ _ => (by decide +kernel : sleeping.num.lt 0 (1/10000) = true), by decide +kernel⟩
     progress := by decide
     energy := by intro _; constructor <;> decide +kernel
     time := by decide +kernel, started := by decide }, exists_of_completes (by decide +kernel)⟩

end Sys2Proof.Tests
end

section
/-! PROOFS. Words as numbers, and the address forms (spec 30 R69, 10 R27, R28). -/

namespace Sys2Proof.Machine

/-- Keeping the bits from `k` up rounds down to a multiple of `2 ^ k`. -/
theorem toNat_and_highMask (v m : Word) (k : Nat) (hm : ∀ i < 32, m.getLsbD i = decide (k ≤ i)) :
    (v &&& m).toNat = v.toNat / 2 ^ k * 2 ^ k := by
  have hbits : v &&& m = (v >>> k) <<< k := by
    apply BitVec.eq_of_getLsbD_eq
    intro i hi
    rw [BitVec.getLsbD_and, hm i hi]
    by_cases hk : k ≤ i <;> simp [hk, hi, Nat.not_lt.mpr, Nat.lt_of_not_le]
  have hle : v.toNat / 2 ^ k * 2 ^ k ≤ v.toNat := Nat.div_mul_le_self ..
  rw [hbits, BitVec.toNat_shiftLeft, BitVec.toNat_ushiftRight, Nat.shiftRight_eq_div_pow, Nat.shiftLeft_eq,
    Nat.mod_eq_of_lt (by have := v.isLt; omega)]

/-- `v` with bit 0 clear, as a number (spec 10 R27, R28). -/
theorem toNat_clearBit0 (v : Word) : (v &&& 0xFFFFFFFE#32).toNat = v.toNat / 2 * 2 :=
  toNat_and_highMask v _ 1 (by decide)

/-- Bit 0 as parity. -/
theorem getLsbD_zero_eq (v : Word) : v.getLsbD 0 = decide (v.toNat % 2 = 1) := Nat.testBit_zero ..

/-- Adding an even number keeps bit 0. -/
theorem getLsbD_zero_add {d : Word} (hd : d.toNat % 2 = 0) (v : Word) : (v + d).getLsbD 0 = v.getLsbD 0 := by
  simp only [getLsbD_zero_eq, BitVec.toNat_add, decide_eq_decide]; omega

/-- Clearing bit 0 of `v + 4` and taking 4 away clears bit 0 of `v` (spec 10 R27). -/
theorem instrAddr_add_four (v : Word) : instrAddr (v + 4#32) = v &&& 0xFFFFFFFE#32 := by
  have h := toNat_clearBit0 (v + 4#32)
  have h' := toNat_clearBit0 v
  rw [instrAddr]
  bv_omega

/-- A word with bit 0 set is its even part plus 1. -/
theorem clearBit0_add_one {v : Word} (h : v.getLsbD 0 = true) : (v &&& 0xFFFFFFFE#32) + 1#32 = v := by
  have h' := toNat_clearBit0 v
  rw [getLsbD_zero_eq, decide_eq_true_iff] at h
  bv_omega

/-- A word with bit 0 set is its even part with bit 0 set. -/
theorem clearBit0_or_one {v : Word} (h : v.getLsbD 0 = true) : (v &&& 0xFFFFFFFE#32) ||| 1#32 = v := by
  have hmask : ∀ i < 32, (0xFFFFFFFE#32 : Word).getLsbD i = decide (1 ≤ i) := by decide
  have hone : ∀ i < 32, (1#32 : Word).getLsbD i = decide (i = 0) := by decide
  apply BitVec.eq_of_getLsbD_eq
  intro i hi
  rw [BitVec.getLsbD_or, BitVec.getLsbD_and, hmask i hi, hone i hi]
  cases i with
  | zero => simp [h]
  | succ k => simp

/-- `Align(v, 4)` as a number (spec 00 R16). -/
theorem toNat_align4 (v : Word) : (align4 v).toNat = v.toNat / 4 * 4 :=
  toNat_and_highMask v _ 2 (by decide)

theorem align4_eq_ofNat (v : Word) : align4 v = BitVec.ofNat 32 (v.toNat / 4 * 4) :=
  BitVec.eq_of_toNat_eq (by rw [toNat_align4, BitVec.toNat_ofNat]; have := v.isLt; omega)

theorem zext_eq_ofNat {n : Nat} (imm : BitVec n) : zext imm = BitVec.ofNat 32 imm.toNat :=
  BitVec.eq_of_toNat_eq (by simp [zext])

/-- A word-scaled offset is 4 times its field (spec 30 R69). -/
theorem wordScaled_eq_ofNat {n : Nat} (imm : BitVec n) : wordScaled imm = BitVec.ofNat 32 (4 * imm.toNat) := by
  rw [wordScaled, zext_eq_ofNat, BitVec.toNat_append]
  simp [Nat.shiftLeft_eq, Nat.mul_comm]

/-- A halfword-scaled offset is twice its field (spec 30 R69). -/
theorem halfScaled_eq_ofNat {n : Nat} (imm : BitVec n) : halfScaled imm = BitVec.ofNat 32 (2 * imm.toNat) := by
  rw [halfScaled, zext_eq_ofNat, BitVec.toNat_append]
  simp [Nat.shiftLeft_eq, Nat.mul_comm]

/-- The PC read value is A + 4 (spec 10 R28). -/
theorem State.pc_eq_addr_add (s : State) : s.pc = s.addr + 4#32 := (BitVec.sub_add_cancel ..).symm

/-- Settles O23: the address functions, by the value of a scaled offset and of `Align` as a number. -/
theorem addressForms : Obligations.AddressForms := by
  intro s rn rm imm5 imm8
  refine ⟨rfl, ?_, ?_, ?_, ?_, ?_, s.pc_eq_addr_add, rfl⟩
  · rw [wordImmAddr, wordScaled_eq_ofNat]
  · rw [halfImmAddr, halfScaled_eq_ofNat]
  · rw [byteImmAddr, zext_eq_ofNat]
  · rw [spAddr, wordScaled_eq_ofNat, sp]
  · rw [pcAddr, wordScaled_eq_ofNat, align4_eq_ofNat]

end Sys2Proof.Machine
end

section
/-! PROOFS. Reset (spec 10 R43, 70 R250, R251). -/

namespace Sys2Proof.Machine

/-- A read of an aligned word in the program region completes (spec 20 R45, R55). -/
theorem memRead_eq_ok_of_lt_romSize {s : State} (hp : s.params.legal) {addr : Word} (ha : addr.toNat % 4 = 0)
    (hlt : addr.toNat < s.params.romSize) : memRead s addr .word = .ok (s.word addr) := by
  refine memRead_eq_ok.mpr ⟨aligned_iff.mpr ha, ?_, rfl⟩
  rw [allMapped_of_aligned hp ha, mapped_iff, inProgram_iff]
  exact .inl hlt

/-- A read of an aligned word between the two regions faults (spec 20 R48, R55). -/
theorem memRead_eq_error_of_between {s : State} (hp : s.params.legal) {addr : Word} (ha : addr.toNat % 4 = 0)
    (hrom : s.params.romSize ≤ addr.toNat) (hram : addr.toNat < 0x20000000) :
    memRead s addr .word = .error (.memoryFault addr 4 .read) := by
  refine memRead_eq_error.mpr (.inr ⟨aligned_iff.mpr ha, ?_, rfl⟩)
  rw [allMapped_of_aligned hp ha, Bool.eq_false_iff, ne_eq, mapped_iff, inProgram_iff, inData_iff]
  omega

/-- Reset before its reads of memory: the CPU State of `Cpu.reset` and no signal set (spec 10 R43). -/
def State.cleared (s : State) : State :=
  { s with cpu := Cpu.reset, branchTaken := false, exitFlag := false, stepCycles := 0 }

/-- Every register but 15 is stored (spec 10 R21). -/
theorem val_lt_of_ne_pc {r : Reg} (h : r ≠ 15) : r.val < 15 := by
  simp only [ne_eq, Fin.ext_iff] at h; omega

theorem State.cleared_x (s : State) {r : Reg} (hr : r ≠ 15) : s.cleared.x r = 0#32 := by
  simp [State.x, State.cleared, Cpu.read, Cpu.reset, val_lt_of_ne_pc hr]

/-- Reset with a program region of two words or more: the word at 0 goes to SP if asked for, and the vector plus 4 to `pc_reg`
(spec 70 R250). -/
theorem resetCpu_eq_ok {s : State} (hp : s.params.legal) (h8 : 8 ≤ s.params.romSize) (loadsSp : Bool) :
    resetCpu loadsSp s =
      .ok ((s.cleared.setX sp (if loadsSp then s.word 0#32 else 0#32)).setPcReg (s.word 4#32 + 4#32)) := by
  have hsp : memRead s.cleared 0#32 .word = .ok (s.word 0#32) :=
    memRead_eq_ok_of_lt_romSize (s := s.cleared) hp (by decide) (show 0 < s.params.romSize by omega)
  have hvec : memRead s.cleared 4#32 .word = .ok (s.word 4#32) :=
    memRead_eq_ok_of_lt_romSize (s := s.cleared) hp (by decide) (show 4 < s.params.romSize by omega)
  simp only [State.cleared] at hsp hvec
  cases loadsSp <;> simp [resetCpu, State.cleared, Config.resetVectorAddr, hsp, hvec]

/-- Reset with a program region of one word: the read of the vector faults (spec 70 R250). -/
theorem resetCpu_eq_error {s : State} (hp : s.params.legal) (h8 : s.params.romSize < 8) (loadsSp : Bool) :
    resetCpu loadsSp s = .error (.memoryFault 4#32 4 .read) := by
  obtain ⟨hpos, hmul, -⟩ := id hp
  have hsp : memRead s.cleared 0#32 .word = .ok (s.word 0#32) :=
    memRead_eq_ok_of_lt_romSize (s := s.cleared) hp (by decide) hpos
  have hvec : memRead s.cleared 4#32 .word = .error (.memoryFault 4#32 4 .read) :=
    memRead_eq_error_of_between (s := s.cleared) hp (by decide) (show s.params.romSize ≤ 4 by omega) (by decide)
  simp only [State.cleared] at hsp hvec
  cases loadsSp <;> simp [resetCpu, Config.resetVectorAddr, hsp, hvec]

/-- A step whose `pc_reg` lost the Thumb bit raises ModeViolation (spec 40 R84). -/
theorem cpuStep_of_notThumb {s : State} (h : s.cpu.pcReg.getLsbD 0 = false) :
    cpuStep s = .fault (.modeViolation s.cpu.pcReg) := by
  simp only [cpuStep, State.setBranchTaken_cpu, h, Bool.not_false, if_true]

/-- Settles O1: where the vector lies in the program region reset has the closed form of `resetCpu_eq_ok`, else its read faults. -/
theorem resetValues : Obligations.ResetValues := by
  intro loadsSp s hp
  refine ⟨fun h8 => ⟨_, resetCpu_eq_ok hp h8 loadsSp, ?_⟩, fun h8 => resetCpu_eq_error hp h8 loadsSp⟩
  generalize (if loadsSp then s.word 0#32 else 0#32) = v
  have haddr : instrAddr (s.word 4#32 + 4#32) = s.word 4#32 &&& 0xFFFFFFFE#32 := instrAddr_add_four _
  refine ⟨fun r h13 h15 => ?_, ?_, rfl, rfl, rfl, rfl, rfl, rfl, rfl, rfl, ⟨rfl, rfl, rfl, rfl, rfl⟩, haddr, fun hbit => ?_,
    fun hbit => cpuStep_of_notThumb ?_⟩
  · rw [State.setPcReg_x, if_pos (val_lt_of_ne_pc h15), State.x_setX_of_ne _ sp _ _ h13, State.cleared_x s h15]
  · rw [State.setPcReg_x, if_pos (by decide)]
    exact State.x_setX_same _ _ _ sp_lt
  · exact (congrArg (· + 1#32) haddr).trans (clearBit0_add_one hbit)
  · exact (getLsbD_zero_add rfl _).trans hbit

/-- The values of the collaborators at reset are > 0. -/
theorem State.reset_legalCollaborators : State.reset.LegalCollaborators where
  clockFrequency := by decide +kernel
  capacitance := fun _ _ => (by decide +kernel : Config.NumType.rational.lt 0 (1 / 10000) = true)
  samplePeriod := by decide +kernel

/-- Settles O60, field by field: over the empty image no byte is listed, and every other field is a number or is empty. -/
theorem resetHasInvariant : Obligations.ResetHasInvariant where
  paramsLegal := by decide
  memWf := Memory.wf_reset
  memMapped := by decide
  cpuInert := ⟨rfl, rfl⟩
  slotInert := by rintro c ⟨⟩
  collaborators := State.reset_legalCollaborators
  progress := by decide
  energy := fun _ => ⟨le_rfl, le_rfl, le_rfl⟩
  time := by decide +kernel
  started := le_rfl

end Sys2Proof.Machine
end

section
/-! PROOFS. What an instruction may do to the status fields of the CPU State (spec 10 R26, R32, R34 to R36). -/

namespace Sys2Proof.Machine

/-- The flags an instruction may write when it is no exception return (spec 10 R32). -/
structure FlagsWritten (i : Instr) (s t : State) : Prop where
  v : writesNZCV i = false → t.cpu.flags.v = s.cpu.flags.v
  c : writesNZCV i = false → writesNZC i = false → t.cpu.flags.c = s.cpu.flags.c
  nz : writesNZCV i = false → writesNZC i = false → writesNZ i = false → t.cpu.flags = s.cpu.flags

/-- What an instruction may do to the status fields of the CPU State: the Thumb bit of `pc_reg`, PM, the mode, `pending` and the flags
(spec 10 R26, R32, R34 to R36). -/
structure StatusEffect (i : Instr) (s t : State) : Prop where
  thumb : s.cpu.pcReg.getLsbD 0 = true → t.cpu.pcReg.getLsbD 0 = true
  primask : t.cpu.primask ≠ s.cpu.primask → s.params.systemExt = true ∧
    ((i = .cpsie ∧ t.cpu.primask = false) ∨ (i = .cpsid ∧ t.cpu.primask = true) ∨
      ∃ rn, i = .msr .primask rn ∧ t.cpu.primask = (s.x rn).getLsbD 0)
  mode : t.cpu.mode ≠ s.cpu.mode → t.cpu.mode = .thread ∧ returnsFromException i s
  pending : t.cpu.pending = s.cpu.pending
  flags : ¬returnsFromException i s → FlagsWritten i s t

section
variable {i : Instr} {s t : State}

theorem FlagsWritten.of_keepsFlags (h : keepsFlags s t) : FlagsWritten i s t :=
  ⟨fun _ => h ▸ rfl, fun _ _ => h ▸ rfl, fun _ _ _ => h⟩

theorem FlagsWritten.of_writesNZCV (hi : writesNZCV i = true) : FlagsWritten i s t := by
  constructor <;> simp [hi]

theorem FlagsWritten.of_writesNZC (hi : writesNZC i = true) (hv : t.cpu.flags.v = s.cpu.flags.v) : FlagsWritten i s t := by
  constructor <;> simp [hi, hv]

theorem FlagsWritten.of_writesNZ (hi : writesNZ i = true) (h : keepsCV s t) : FlagsWritten i s t := by
  constructor <;> simp [hi, h]

/-- An instruction that leaves PM, the mode and `pending` alone. -/
theorem StatusEffect.of_keepsControl (hpc : s.cpu.pcReg.getLsbD 0 = true → t.cpu.pcReg.getLsbD 0 = true)
    (hc : keepsControl s t) (hf : FlagsWritten i s t) : StatusEffect i s t :=
  ⟨hpc, fun h => absurd hc.1 h, fun h => absurd hc.2.1 h, hc.2.2, fun _ => hf⟩

/-- An instruction that leaves every status field alone. -/
theorem StatusEffect.of_kept (hpc : t.cpu.pcReg = s.cpu.pcReg) (hc : keepsControl s t) (hf : keepsFlags s t) :
    StatusEffect i s t :=
  .of_keepsControl (fun h => hpc ▸ h) hc (.of_keepsFlags hf)

/-- A register write and the cost leave PM, the mode and `pending` alone. -/
theorem keepsControl_setX_cost {u : State} (h : keepsControl s u) (r : Reg) (v : Word) (c : CycleClass) :
    keepsControl s ((u.setX r v).cost c) := by
  simpa [keepsControl] using h

/-- A register write and the cost leave the flags alone. -/
theorem keepsFlags_setX_cost {u : State} (h : keepsFlags s u) (r : Reg) (v : Word) (c : CycleClass) :
    keepsFlags s ((u.setX r v).cost c) := by
  simpa [keepsFlags] using h

/-- A register write as the last effect of an instruction, after effects that leave every status field alone. -/
theorem StatusEffect.setX_cost {u : State} {r : Reg} {v : Word} {c : CycleClass} (hpc : u.cpu.pcReg = s.cpu.pcReg)
    (hc : keepsControl s u) (hf : keepsFlags s u) : StatusEffect i s ((u.setX r v).cost c) :=
  .of_kept (by simpa using hpc) (keepsControl_setX_cost hc r v c) (keepsFlags_setX_cost hf r v c)

/-- A branch target has the Thumb bit set (spec 40 R106). -/
theorem getLsbD_zero_branchTo (target : Word) (u : State) : (branchTo target u).cpu.pcReg.getLsbD 0 = true := by
  simp

theorem StatusEffect.writeAdd {rd : Reg} {r : AddOut} (hi : writesNZCV i = true) (h : writeAdd rd r s = .next t) :
    StatusEffect i s t := by
  cases h
  exact .of_keepsControl (by simp) (by simp [keepsControl]) (.of_writesNZCV hi)

theorem StatusEffect.compareAdd {r : AddOut} (hi : writesNZCV i = true) (h : compareAdd r s = .next t) :
    StatusEffect i s t := by
  cases h
  exact .of_keepsControl (by simp) (by simp [keepsControl]) (.of_writesNZCV hi)

theorem StatusEffect.writeShift {rd : Reg} {r : Word × Bool} (hi : writesNZC i = true) (h : writeShift rd r s = .next t) :
    StatusEffect i s t := by
  cases h
  exact .of_keepsControl (by simp) (by simp [keepsControl]) (.of_writesNZC hi rfl)

theorem StatusEffect.writeLogical {rd : Reg} {v : Word} {c : CycleClass} (hi : writesNZ i = true)
    (h : writeLogical rd v c s = .next t) : StatusEffect i s t := by
  cases h
  exact .of_keepsControl (by simp) (by simp [keepsControl]) (.of_writesNZ hi ⟨rfl, rfl⟩)

theorem StatusEffect.writePlain {rd : Reg} {v : Word} {c : CycleClass} (h : writePlain rd v c s = .next t) :
    StatusEffect i s t := by
  cases h
  exact .setX_cost rfl ⟨rfl, rfl, rfl⟩ rfl

theorem StatusEffect.branchTo {target : Word} {c : CycleClass} {u : State} (hc : keepsControl s u) (hf : keepsFlags s u)
    (h : Host.Outcome.next ((branchTo target u).cost c) = (.next t : Result)) : StatusEffect i s t := by
  cases h
  exact .of_keepsControl (fun _ => getLsbD_zero_branchTo target u) hc (.of_keepsFlags hf)

theorem StatusEffect.writeOrBranch {rd : Reg} {v : Word} (h : writeOrBranch rd v s = .next t) : StatusEffect i s t := by
  unfold Machine.writeOrBranch at h
  split at h
  · exact .branchTo ⟨rfl, rfl, rfl⟩ rfl h
  · exact .writePlain h

theorem StatusEffect.loadInto {rt : Reg} {addr : Word} {w : Width} {e : Word → Word} (h : loadInto rt addr w e s = .next t) :
    StatusEffect i s t := by
  obtain ⟨v, -, h⟩ := orFault_eq_next.mp h
  exact .writePlain h

theorem StatusEffect.storeFrom {rt : Reg} {addr : Word} {w : Width} (h : storeFrom rt addr w s = .next t) :
    StatusEffect i s t := by
  obtain ⟨u, hu, h⟩ := orFault_eq_next.mp h
  obtain ⟨-, -, rfl⟩ := memWrite_eq_ok.mp hu
  cases h
  exact .of_kept rfl ⟨rfl, rfl, rfl⟩ rfl

theorem whenSystemExt_eq_next {k : Result} :
    whenSystemExt i s k = .next t ↔ s.params.systemExt = true ∧ k = .next t := by
  unfold whenSystemExt raiseMalformed
  split <;> simp [*]

theorem StatusEffect.writeSysReg {r : SysReg} {rn : Reg} (hext : s.params.systemExt = true)
    (h : writeSysReg (.msr r rn) r (s.x rn) s = .next t) : StatusEffect (.msr r rn) s t := by
  cases r
  case apsr | iapsr | eapsr | xpsr =>
    cases h
    exact .of_keepsControl id ⟨rfl, rfl, rfl⟩ (.of_writesNZCV rfl)
  case ipsr | epsr | iepsr =>
    cases h
    exact .of_kept rfl ⟨rfl, rfl, rfl⟩ rfl
  case msp => exact .writePlain h
  case primask =>
    cases h
    exact ⟨id, fun _ => ⟨hext, .inr (.inr ⟨rn, rfl, rfl⟩)⟩, fun h => absurd rfl h, rfl, fun _ => .of_keepsFlags rfl⟩
  case control =>
    simp only [Machine.writeSysReg, raiseMalformed] at h
    split at h <;> cases h
    exact .of_kept rfl ⟨rfl, rfl, rfl⟩ rfl

/-- A completed load of many registers leaves every status field alone. -/
theorem loadRegs_status {rs : List Reg} {addr : Word} {u : State} (h : loadRegs rs addr s = .ok u) :
    u.cpu.pcReg = s.cpu.pcReg ∧ keepsControl s u ∧ keepsFlags s u := by
  rw [(loadRegs_frame h).1]
  exact ⟨rfl, ⟨rfl, rfl, rfl⟩, rfl⟩

/-- A completed store of many registers leaves every status field alone. -/
theorem storeRegs_status {rs : List Reg} {addr : Word} {u : State} (h : storeRegs rs addr s = .ok u) :
    u.cpu.pcReg = s.cpu.pcReg ∧ keepsControl s u ∧ keepsFlags s u := by
  rw [(storeRegs_frame h).1]
  exact ⟨rfl, ⟨rfl, rfl, rfl⟩, rfl⟩

/-- An exception return reads the flags and the PC from the frame, and enters Thread mode (spec 60 R238). -/
theorem exceptionReturn_status (h : exceptionReturn s = .next t) :
    t.cpu.pcReg.getLsbD 0 = true ∧ t.cpu.primask = s.cpu.primask ∧ t.cpu.mode = .thread ∧ t.cpu.pending = s.cpu.pending := by
  obtain ⟨s1, ret, psr, h1, -, -, -, rfl⟩ := exceptionReturn_eq_next.mp h
  obtain ⟨-, ⟨hpm, -, hpend⟩, -⟩ := loadRegs_status h1
  exact ⟨getLsbD_zero_branchTo .., by simpa using hpm, rfl, by simpa using hpend⟩

/-- BX and POP with PC, from the state `u` in which they branch through their value. -/
theorem StatusEffect.bxWritePC {target : Word} {u : State} (hv : branchValue i s = some target) (hc : keepsControl s u)
    (hf : keepsFlags s u) (h : bxWritePC target u = .next t) : StatusEffect i s t := by
  obtain ⟨hpm, hmode, hpend⟩ := hc
  rcases bxWritePC_eq_next.mp h with ⟨hx, h⟩ | ⟨-, -, rfl⟩
  · obtain ⟨hb, hpm', hmode', hpend'⟩ := exceptionReturn_status h
    have hret : returnsFromException i s := ⟨target, hv, by simpa [isExcReturn] using hx⟩
    exact ⟨fun _ => hb, fun h => absurd (hpm'.trans hpm) h, fun _ => ⟨hmode', hret⟩, hpend'.trans hpend,
      fun h => absurd hret h⟩
  · exact .of_keepsControl (fun _ => getLsbD_zero_branchTo ..) ⟨hpm, hmode, hpend⟩ (.of_keepsFlags hf)

/-- A list field names as many registers as it has bits set. -/
theorem length_listRegs (list : BitVec 8) : (listRegs list).length = bitCount list := by
  have hrange : List.range 8 = lowRegs.map Fin.val := rfl
  rw [listRegs, List.length_map, bitCount, placeIn, hrange, List.filter_map, List.length_map]
  rfl

theorem StatusEffect.pop {p : Bool} {list : BitVec 8} (h : execPop p list s = .next t) : StatusEffect (.pop p list) s t := by
  obtain ⟨u, hu, h⟩ := orFault_eq_next.mp h
  obtain ⟨hpc, hc, hf⟩ := loadRegs_status hu
  cases p
  case false =>
    cases h
    exact .setX_cost hpc hc hf
  case true =>
    obtain ⟨target, htarget, h⟩ := orFault_eq_next.mp h
    obtain ⟨-, -, rfl⟩ := memRead_eq_ok.mp htarget
    refine .bxWritePC ?_ (keepsControl_setX_cost hc ..) (keepsFlags_setX_cost hf ..) h
    have hmem : u.mem = s.mem := by rw [(loadRegs_frame hu).1]
    rw [branchValue, hmem, length_listRegs]; rfl

/-- What any instruction may do to the status fields. -/
theorem StatusEffect.exec (h : exec i s = .next t) : StatusEffect i s t := by
  cases i
  case addsReg | subsReg | addsImm3 | subsImm3 | addsImm8 | subsImm8 | adcs | sbcs | rsbs => exact .writeAdd rfl h
  case cmpImm | cmpReg | cmn | cmpHi => exact .compareAdd rfl h
  case movsImm | ands | eors | orrs | bics | mvns | muls => exact .writeLogical rfl h
  case lslsImm | lsrsImm | asrsImm | lslsReg | lsrsReg | asrsReg | rors => exact .writeShift rfl h
  case adr | addSpRd | addSpImm7 | subSpImm7 | sxth | sxtb | uxth | uxtb | rev | rev16 | revsh => exact .writePlain h
  case addHi | movHi => exact .writeOrBranch h
  case ldrLit | ldrReg | ldrhReg | ldrbReg | ldrshReg | ldrsbReg | ldrImm | ldrbImm | ldrhImm | ldrSp => exact .loadInto h
  case strReg | strhReg | strbReg | strImm | strbImm | strhImm | strSp => exact .storeFrom h
  case wfe | wfi | svc | udf | udfW => cases h
  case tst =>
    cases h
    exact .of_keepsControl id ⟨rfl, rfl, rfl⟩ (.of_writesNZ rfl ⟨rfl, rfl⟩)
  case nop | bkpt =>
    cases h
    exact .of_kept rfl ⟨rfl, rfl, rfl⟩ rfl
  case yield | sev | dsb | dmb | isb =>
    obtain ⟨-, h⟩ := whenSystemExt_eq_next.mp h
    cases h
    exact .of_kept rfl ⟨rfl, rfl, rfl⟩ rfl
  case cpsie =>
    obtain ⟨hext, h⟩ := whenSystemExt_eq_next.mp h
    cases h
    exact ⟨id, fun _ => ⟨hext, .inl ⟨rfl, rfl⟩⟩, fun h => absurd rfl h, rfl, fun _ => .of_keepsFlags rfl⟩
  case cpsid =>
    obtain ⟨hext, h⟩ := whenSystemExt_eq_next.mp h
    cases h
    exact ⟨id, fun _ => ⟨hext, .inr (.inl ⟨rfl, rfl⟩)⟩, fun h => absurd rfl h, rfl, fun _ => .of_keepsFlags rfl⟩
  case mrs =>
    obtain ⟨-, h⟩ := whenSystemExt_eq_next.mp h
    exact .writePlain h
  case msr =>
    obtain ⟨hext, h⟩ := whenSystemExt_eq_next.mp h
    exact .writeSysReg hext h
  case stm =>
    obtain ⟨u, hu, h⟩ := orFault_eq_next.mp h
    cases h
    obtain ⟨hpc, hc, hf⟩ := storeRegs_status hu
    exact .setX_cost hpc hc hf
  case ldm rn list =>
    obtain ⟨u, hu, h⟩ := orFault_eq_next.mp h
    obtain ⟨hpc, hc, hf⟩ := loadRegs_status hu
    cases h
    split
    · exact .of_kept hpc hc hf
    · exact .setX_cost hpc hc hf
  case push =>
    obtain ⟨-, u, hu, rfl⟩ := execPush_eq_next.mp h
    obtain ⟨hpc, hc, hf⟩ := storeRegs_status hu
    exact .setX_cost hpc hc hf
  case pop => exact .pop h
  case bx rm => exact .bxWritePC (u := s.cost .bx) (target := s.x rm) rfl ⟨rfl, rfl, rfl⟩ rfl h
  case b => exact .branchTo ⟨rfl, rfl, rfl⟩ rfl h
  case bl => exact .branchTo (by simp [keepsControl]) (by simp [keepsFlags]) h
  case bCond =>
    simp only [Machine.exec, execBCond] at h
    split at h
    · exact .branchTo ⟨rfl, rfl, rfl⟩ rfl h
    · cases h
      exact .of_kept rfl ⟨rfl, rfl, rfl⟩ rfl
  case blx =>
    simp only [Machine.exec, execBlx] at h
    split at h
    · exact .branchTo (by simp [keepsControl]) (by simp [keepsFlags]) h
    · cases h
end

/-- Settles O46: the fields of `StatusEffect`, which holds of every instruction that completes. -/
theorem statusWriters : Obligations.StatusWriters := by
  intro i s t h
  obtain ⟨-, hpm, hmode, hpend, hflags⟩ := StatusEffect.exec h
  exact ⟨hpm, hmode, hpend, fun hret => ⟨(hflags hret).v, (hflags hret).c, (hflags hret).nz⟩⟩

end Sys2Proof.Machine
end

section
/-! PROOFS. The Thumb bit between two steps (spec 10 R26). -/

namespace Sys2Proof.Machine

/-- What a completed CPU step has gone through: the mode check, the fetch, the decoder, the execution, the advance (spec 40 R83). -/
theorem exists_of_cpuStep_eq_next {s t : State} (h : cpuStep s = .next t) :
    s.cpu.pcReg.getLsbD 0 = true ∧ ∃ w i u, fetch (s.setBranchTaken false) = .ok w ∧ decode w.1 w.2 = .ok i ∧
      exec i (s.setBranchTaken false) = .next u ∧ t = advance i u := by
  simp only [cpuStep] at h
  split at h
  · cases h
  · rename_i hb
    obtain ⟨w, hw, h⟩ := orFault_eq_next.mp h
    split at h
    · rename_i i hd
      obtain ⟨u, hu, h⟩ := andThen_eq_next.mp h
      cases h
      exact ⟨by simpa using hb, w, i, u, hw, hd, hu, rfl⟩
    · cases h

/-- The width of an instruction is even. -/
theorem instrLen_even (i : Instr) : (BitVec.ofNat 32 i.len).toNat % 2 = 0 := by
  unfold Instr.len
  split <;> rfl

/-- The advance keeps the Thumb bit, for it adds an even number (spec 40 R88). -/
theorem advance_thumb (i : Instr) (s : State) : (advance i s).cpu.pcReg.getLsbD 0 = s.cpu.pcReg.getLsbD 0 := by
  unfold advance
  split
  · rfl
  · split
    · exact getLsbD_zero_add rfl _
    · exact getLsbD_zero_add (instrLen_even i) _

/-- The instruction address is even (spec 10 R26). -/
theorem State.addr_even (s : State) : s.addr.toNat % 2 = 0 := by
  have h := toNat_clearBit0 s.cpu.pcReg
  rw [State.addr, instrAddr]
  bv_omega

/-- Settles O44: no instruction clears the Thumb bit and the advance adds an even number, so A is `pc_reg` less 4 and bit 0. -/
theorem thumbBitKept : Obligations.ThumbBitKept := by
  intro s t h
  obtain ⟨hs, w, i, u, -, -, hu, rfl⟩ := exists_of_cpuStep_eq_next h
  have ht : (advance i u).cpu.pcReg.getLsbD 0 = true := (advance_thumb i u).trans ((StatusEffect.exec hu).thumb hs)
  refine ⟨hs, ht, State.addr_even _, ?_⟩
  rw [← State.pc_eq_addr_add]
  exact (clearBit0_or_one ht).symm

end Sys2Proof.Machine
end

section
/-! PROOFS. The core is a function of the CPU State and the memory (spec 10 R42): its operations commute with a change of the loop side and of
the signals of the step before. -/

namespace Sys2Proof.Machine

/-- `s` beside the scheme, the battery, the environment and the loop of `o`. -/
def State.beside (s o : State) : State :=
  { s with scheme := o.scheme, battery := o.battery, env := o.env, loop := o.loop }

/-- A completed outcome, beside the loop side of `o`. -/
def besideResult (o : State) (r : Result) : Result := andThen r fun t => .next (t.beside o)

@[simp] theorem besideResult_next (o t : State) : besideResult o (.next t) = .next (t.beside o) := rfl

@[simp] theorem besideResult_fault (o : State) (f : Fault) : besideResult o (.fault f) = .fault f := rfl

theorem besideResult_orFault (o : State) {α : Type} (e : Except Fault α) (k : α → Result) :
    besideResult o (orFault e k) = orFault e fun a => besideResult o (k a) := by
  cases e <;> rfl

theorem orFault_congr {α : Type} {e : Except Fault α} {k k' : α → Result} (h : ∀ a, k a = k' a) :
    orFault e k = orFault e k' :=
  congrArg (orFault e) (funext h)

theorem orFault_map {α β : Type} (e : Except Fault α) (f : α → β) (k : β → Result) :
    orFault (e.map f) k = orFault e fun a => k (f a) := by
  cases e <;> rfl

/-- A load of many registers commutes with a change of the state that it neither reads nor writes. -/
theorem loadRegs_map (f : State → State) (hm : ∀ s, (f s).mem = s.mem) (hp : ∀ s, (f s).params = s.params)
    (hx : ∀ s r v, (f s).setX r v = f (s.setX r v)) (rs : List Reg) (addr : Word) (s : State) :
    loadRegs rs addr (f s) = (loadRegs rs addr s).map f := by
  induction rs generalizing addr s with
  | nil => rfl
  | cons r rest ih =>
    simp only [loadRegs, memRead_congr (hm s) (hp s)]
    cases memRead s addr .word with
    | error e => rfl
    | ok v => simp only [hx, ih]

/-- An exception return, beside the loop side of `o`. -/
theorem exceptionReturn_beside (o s : State) : exceptionReturn (s.beside o) = besideResult o (exceptionReturn s) := by
  have hload := loadRegs_map (·.beside o) (fun _ => rfl) (fun _ => rfl) (fun _ _ _ => rfl) frameRegs (s.x sp) s
  have hread (u : State) (a : Word) : memRead (u.beside o) a .word = memRead u a .word := memRead_congr rfl rfl ..
  have hsp : (s.beside o).x sp = s.x sp := rfl
  simp only [exceptionReturn, hsp, hload, hread, orFault_map, besideResult_orFault]
  refine orFault_congr fun u => orFault_congr fun ret => orFault_congr fun psr => ?_
  split <;> rfl

theorem bxWritePC_beside (o : State) (target : Word) (s : State) :
    bxWritePC target (s.beside o) = besideResult o (bxWritePC target s) := by
  unfold bxWritePC
  split
  · exact exceptionReturn_beside o s
  · split <;> rfl

section
variable (o : State) (n : Nat) (s : State)

/-! An operation or a meaning beside the loop side of `o`, where the step before it left the cycle count `n`, which each meaning
overwrites. -/

theorem loadRegs_beside (rs : List Reg) (addr : Word) :
    loadRegs rs addr ((s.beside o).charge n) = (loadRegs rs addr s).map fun t => (t.beside o).charge n :=
  loadRegs_map (fun t => (t.beside o).charge n) (fun _ => rfl) (fun _ => rfl) (fun _ _ _ => rfl) rs addr s

theorem memRead_beside (addr : Word) (w : Width) : memRead ((s.beside o).charge n) addr w = memRead s addr w :=
  memRead_congr rfl rfl ..

theorem memWrite_beside (addr : Word) (w : Width) (v : Word) :
    memWrite ((s.beside o).charge n) addr w v = (memWrite s addr w v).map fun t => (t.beside o).charge n := by
  have hp : ((s.beside o).charge n).params = s.params := rfl
  simp only [memWrite, hp]
  cases aligned addr w <;> cases allData s.params addr w <;> rfl

theorem storeRegs_beside (rs : List Reg) (addr : Word) :
    storeRegs rs addr ((s.beside o).charge n) = (storeRegs rs addr s).map fun t => (t.beside o).charge n := by
  induction rs generalizing addr s with
  | nil => rfl
  | cons r rest ih =>
    have hx : ((s.beside o).charge n).x r = s.x r := rfl
    simp only [storeRegs, hx, memWrite_beside]
    cases memWrite s addr .word (s.x r) with
    | error f => rfl
    | ok u => exact ih u (addr + 4#32)

theorem loadInto_beside (rt : Reg) (addr : Word) (w : Width) (e : Word → Word) :
    loadInto rt addr w e ((s.beside o).charge n) = besideResult o (loadInto rt addr w e s) := by
  rw [loadInto, memRead_beside, loadInto, besideResult_orFault]
  rfl

theorem storeFrom_beside (rt : Reg) (addr : Word) (w : Width) :
    storeFrom rt addr w ((s.beside o).charge n) = besideResult o (storeFrom rt addr w s) := by
  rw [storeFrom, memWrite_beside, orFault_map, storeFrom, besideResult_orFault]
  rfl

theorem writeOrBranch_beside (rd : Reg) (v : Word) :
    writeOrBranch rd v ((s.beside o).charge n) = besideResult o (writeOrBranch rd v s) := by
  unfold writeOrBranch
  split <;> rfl

theorem whenSystemExt_beside (i : Instr) {k k' : Result} (hk : k' = besideResult o k) :
    whenSystemExt i ((s.beside o).charge n) k' = besideResult o (whenSystemExt i s k) := by
  have hp : ((s.beside o).charge n).params = s.params := rfl
  rw [whenSystemExt, hp, whenSystemExt, hk]
  cases s.params.systemExt <;> rfl

theorem writeSysReg_beside (i : Instr) (r : SysReg) (v : Word) :
    writeSysReg i r v ((s.beside o).charge n) = besideResult o (writeSysReg i r v s) := by
  cases r
  case control =>
    unfold writeSysReg
    cases v.getLsbD 1 <;> rfl
  all_goals rfl

theorem execLdm_beside (rn : LowReg) (list : BitVec 8) :
    execLdm rn list ((s.beside o).charge n) = besideResult o (execLdm rn list s) := by
  have hx : ((s.beside o).charge n).x (lo rn) = s.x (lo rn) := rfl
  simp only [execLdm, hx, loadRegs_beside, orFault_map, besideResult_orFault]
  refine orFault_congr fun u => ?_
  split <;> rfl

theorem execStm_beside (rn : LowReg) (list : BitVec 8) :
    execStm rn list ((s.beside o).charge n) = besideResult o (execStm rn list s) := by
  have hx : ((s.beside o).charge n).x (lo rn) = s.x (lo rn) := rfl
  simp only [execStm, hx, storeRegs_beside, orFault_map, besideResult_orFault]
  rfl

theorem execPush_beside (m : Bool) (list : BitVec 8) :
    execPush m list ((s.beside o).charge n) = besideResult o (execPush m list s) := by
  have hx : ((s.beside o).charge n).x sp = s.x sp := rfl
  have hz : pushFaultsAtZero ((s.beside o).charge n) = pushFaultsAtZero s := rfl
  simp only [execPush, hx, hz, storeRegs_beside, orFault_map, besideResult_orFault]
  refine orFault_congr fun u => ?_
  split <;> rfl

theorem execPop_beside (p : Bool) (list : BitVec 8) :
    execPop p list ((s.beside o).charge n) = besideResult o (execPop p list s) := by
  have hx : ((s.beside o).charge n).x sp = s.x sp := rfl
  simp only [execPop, hx, loadRegs_beside, orFault_map, besideResult_orFault]
  refine orFault_congr fun u => ?_
  cases p with
  | false => rfl
  | true =>
    simp only [if_true, memRead_beside, besideResult_orFault]
    exact orFault_congr fun target => bxWritePC_beside o target
      ((u.setX sp (s.x sp + wordsSize ((listRegs list).length + 1))).cost (.popPc ((listRegs list).length + 1)))

/-- No instruction reads the loop side of the machine or the cycle count of the step before. -/
theorem exec_beside (i : Instr) : exec i ((s.beside o).charge n) = besideResult o (exec i s) := by
  cases i
  case addsReg | subsReg | addsImm3 | subsImm3 | addsImm8 | subsImm8 | adcs | sbcs | rsbs | cmpImm | cmpReg | cmn | cmpHi | movsImm |
      ands | eors | orrs | bics | mvns | muls | tst | lslsImm | lsrsImm | asrsImm | lslsReg | lsrsReg | asrsReg | rors | adr | addSpRd |
      addSpImm7 | subSpImm7 | sxth | sxtb | uxth | uxtb | rev | rev16 | revsh | b | bl | bkpt | nop | wfe | wfi | svc | udf | udfW => rfl
  case addHi | movHi => exact writeOrBranch_beside ..
  case ldrLit | ldrReg | ldrhReg | ldrbReg | ldrshReg | ldrsbReg | ldrImm | ldrbImm | ldrhImm | ldrSp => exact loadInto_beside ..
  case strReg | strhReg | strbReg | strImm | strbImm | strhImm | strSp => exact storeFrom_beside ..
  case yield | sev | dsb | dmb | isb | cpsie | cpsid | mrs => exact whenSystemExt_beside _ _ _ _ rfl
  case msr => exact whenSystemExt_beside _ _ _ _ (writeSysReg_beside ..)
  case stm => exact execStm_beside ..
  case ldm => exact execLdm_beside ..
  case push => exact execPush_beside ..
  case pop => exact execPop_beside ..
  case bx rm => exact bxWritePC_beside o (s.x rm) (s.cost .bx)
  case bCond cond imm8 =>
    have hf : ((s.beside o).charge n).cpu = s.cpu := rfl
    simp only [exec, execBCond, hf]
    split <;> rfl
  case blx rm =>
    have hx : ((s.beside o).charge n).x rm = s.x rm := rfl
    simp only [exec, execBlx, hx]
    split <;> rfl

theorem advance_beside (i : Instr) : advance i (s.beside o) = (advance i s).beside o := by
  have hb : (s.beside o).branchTaken = s.branchTaken := rfl
  simp only [advance, hb]
  split
  · rfl
  · split <;> rfl

theorem runInstr_beside (i : Instr) : runInstr i ((s.beside o).charge n) = besideResult o (runInstr i s) := by
  rw [runInstr, exec_beside, runInstr]
  cases exec i s with
  | next t => exact congrArg _ (advance_beside o t i)
  | fault f => rfl
  | refused r => rfl

/-- A CPU step reads neither the loop side nor the signals of the step before (spec 10 R42). -/
theorem cpuStep_beside (b : Bool) :
    cpuStep (((s.beside o).charge n).setBranchTaken b) = besideResult o (cpuStep s) := by
  cases hb : s.cpu.pcReg.getLsbD 0
  · rw [cpuStep_of_notThumb hb, cpuStep_of_notThumb (s := ((s.beside o).charge n).setBranchTaken b) hb]
    rfl
  · have hstart : (((s.beside o).charge n).setBranchTaken b).setBranchTaken false =
        ((s.setBranchTaken false).beside o).charge n := rfl
    have hcpu : (((s.setBranchTaken false).beside o).charge n).cpu = s.cpu := rfl
    have hfetch : fetch (((s.setBranchTaken false).beside o).charge n) = fetch (s.setBranchTaken false) := rfl
    simp only [cpuStep, hstart, hcpu, hfetch, State.setBranchTaken_cpu, hb, Bool.not_true, Bool.false_eq_true, if_false,
      besideResult_orFault]
    refine orFault_congr fun w => ?_
    cases decode w.1 w.2 with
    | error e => rfl
    | ok i => exact runInstr_beside o n (s.setBranchTaken false) i

end

/-- A state with the CPU State, the memory, the parameters and the exit flag of another one is that one beside its own loop side and
signals. -/
theorem eq_beside {s s' : State} (hc : s'.cpu = s.cpu) (hm : s'.mem = s.mem) (hp : s'.params = s.params)
    (he : s'.exitFlag = s.exitFlag) : s' = ((s.beside s').charge s'.stepCycles).setBranchTaken s'.branchTaken := by
  cases s'
  simp only at hc hm hp he
  subst hc hm hp he
  rfl

/-- Settles O45: the second state is the first one beside another loop side and other signals, and a CPU step commutes with that. -/
theorem coreIsAFunctionOfCpuAndMemory : Obligations.CoreIsAFunctionOfCpuAndMemory := by
  intro s s' hc hm hp he
  have hstep : cpuStep s' = besideResult s' (cpuStep s) := by
    conv_lhs => rw [eq_beside hc hm hp he]
    exact cpuStep_beside ..
  refine ⟨fun t h => ⟨t.beside s', ?_, rfl, rfl, rfl, rfl⟩, fun f h => ?_⟩
  · rw [hstep, h, besideResult_next]
  · rw [hstep, h, besideResult_fault]

end Sys2Proof.Machine
end

section
/-! PROOFS. Reads and writes of memory as numbers and bytes, and what an instruction writes (spec 20 R45, R52, R55 to R57). -/

namespace Sys2Proof.Machine

/-! ### Alignment and region (spec 20 R48, R53, R57) -/

theorem aligned_eq_false_iff {addr : Word} {w : Width} : aligned addr w = false ↔ addr.toNat % w.bytes ≠ 0 := by
  rw [Bool.eq_false_iff, ne_eq, aligned_iff]

theorem mapped_of_inData {p : Config.Params} {a : Nat} (h : inData p a = true) : mapped p a = true :=
  (mapped_iff p a).mpr (.inr h)

/-- A fetch lies in the regions when both its bytes do (spec 20 R57). -/
theorem allMapped_half (p : Config.Params) (addr : Word) :
    allMapped p addr .half = (mapped p addr.toNat && mapped p (addr + 1#32).toNat) := by
  rw [allMapped, ← byteAddr_zero]
  exact congrArg (mapped p (byteAddr addr 0) && ·) (Bool.and_true _)

/-! ### The number read (spec 20 R51, R55) -/

/-- A byte below other bits, as a number. -/
theorem toNat_append_byte {n : Nat} (hi : BitVec n) (low : Byte) : (hi ++ low).toNat = hi.toNat * 256 + low.toNat := by
  rw [BitVec.toNat_append, ← Nat.shiftLeft_add_eq_or_of_lt low.isLt, Nat.shiftLeft_eq]

/-- A load gives the sum of its bytes times 256 to their place. -/
theorem Memory.toNat_load (m : Memory) (addr : Word) (w : Width) :
    (m.load addr w).toNat = ((List.range w.bytes).map fun k => (m.read (byteAddr addr k)).toNat * 256 ^ k).sum := by
  have hfits {n : Nat} (hn : n ≤ 32) (b : BitVec n) : (b.setWidth 32).toNat = b.toNat := by
    rw [BitVec.toNat_setWidth, Nat.mod_eq_of_lt (b.isLt.trans_le (Nat.pow_le_pow_right Nat.two_pos hn))]
  cases w <;> simp only [Width.bytes, List.sum_range_succ, List.range_zero, List.map_nil, List.sum_nil, Memory.load]
  case byte => rw [hfits (by decide)]; ring
  case half => rw [hfits (by decide), toNat_append_byte]; ring
  case word => rw [toNat_append_byte, toNat_append_byte, toNat_append_byte]; ring

/-- Settles O10: the three answers of a read by alignment and region of its first byte, the number by `Memory.toNat_load`, and a fetch by
its two bytes. -/
theorem memoryReads : Obligations.MemoryReads := by
  intro s addr w hp
  refine ⟨fun ha => ?_, fun ha hm => ?_, fun ha hm => ⟨s.mem.load addr w, ?_, ?_⟩, fun hm => ?_, fun h0 h1 => ?_⟩
  · exact memRead_eq_error.mpr (.inl ⟨aligned_eq_false_iff.mpr ha, rfl⟩)
  · exact memRead_eq_error.mpr (.inr ⟨aligned_iff.mpr ha, (allMapped_of_aligned hp ha).trans hm, rfl⟩)
  · exact memRead_eq_ok.mpr ⟨aligned_iff.mpr ha, (allMapped_of_aligned hp ha).trans hm, rfl⟩
  · rw [Memory.toNat_load]
    refine congrArg List.sum (List.map_congr_left fun k hk => ?_)
    rw [byteAddr_of_aligned ha (List.mem_range.mp hk)]
  · have hno : allMapped s.params addr .half = false := by
      rw [allMapped_half, Bool.and_eq_false_iff]; exact hm
    simp [fetchHalf, hno]
  · have hyes : allMapped s.params addr .half = true := by
      rw [allMapped_half, h0, h1]; rfl
    rw [fetchHalf, hyes, byteAddr_zero]; rfl

/-! ### A word read back in parts (spec 20 R52) -/

theorem byteAddr_add (addr : Word) (j k : Nat) : byteAddr (addr + BitVec.ofNat 32 j) k = byteAddr addr (j + k) := by
  rw [byteAddr, byteAddr, BitVec.add_assoc, BitVec.ofNat_add]

/-- A part of an aligned word in the data region can be read, at an offset that is a multiple of the part's width. -/
theorem memRead_part {s : State} (hp : s.params.legal) {addr : Word} (ha : addr.toNat % 4 = 0)
    (hd : inData s.params addr.toNat = true) (w : Width) (j : Nat) (hj : j + w.bytes ≤ 4) (hjw : j % w.bytes = 0) :
    memRead s (addr + BitVec.ofNat 32 j) w = .ok (s.mem.load (addr + BitVec.ofNat 32 j) w) := by
  refine memRead_eq_ok.mpr ⟨aligned_iff.mpr ?_, allMapped_iff.mpr fun k hk => mapped_of_inData ?_, rfl⟩
  · have hsum : (addr + BitVec.ofNat 32 j).toNat = addr.toNat + j :=
      byteAddr_of_aligned (w := .word) ha (by have := w.bytes_pos; simp only [Width.bytes]; omega)
    rw [hsum]
    cases w <;> simp only [Width.bytes] at hjw ⊢ <;> omega
  · rw [byteAddr_add, inData_of_aligned (w := .word) hp ha (by simp only [Width.bytes]; omega)]
    exact hd

/-- The two upper bytes of a word are its upper halfword. -/
theorem byteOf_append_byteOf (v : Word) : byteOf v 3 ++ byteOf v 2 = v.extractLsb' 16 16 :=
  BitVec.extractLsb'_append_extractLsb'_eq_extractLsb' rfl

section
variable {m : Memory} {addr : Word} {v : Word}

/-- A stored word reads back by bytes. -/
theorem Memory.load_byte_store_word (hm : m.wf) (k : Nat) (hk : k < 4) :
    (m.store addr .word v).load (addr + BitVec.ofNat 32 k) .byte = zext (byteOf v k) := by
  simp only [Memory.load, byteAddr_add, Nat.add_zero]
  rw [Memory.read_store_inside m hm addr .word v k hk, zext]

/-- The upper halfword of a stored word. -/
theorem Memory.load_half_store_word (hm : m.wf) :
    (m.store addr .word v).load (addr + 2#32) .half = zext (v.extractLsb' 16 16) := by
  have hread : ∀ k < 4, (m.store addr .word v).read (byteAddr addr k) = byteOf v k := Memory.read_store_inside m hm addr .word v
  simp only [Memory.load, byteAddr_add]
  rw [hread (2 + 1) (by decide), hread (2 + 0) (by decide), byteOf_append_byteOf, zext]
end

/-- Settles O11: the three answers of a store by alignment and region of its first byte, the bytes after it by `Memory.read_store_inside`
and `Memory.read_store_outside`, and each part of a word read back by `memRead_part`. -/
theorem memoryWrites : Obligations.MemoryWrites := by
  intro s addr w v hp hm
  refine ⟨fun ha => ?_, fun ha hd => ?_, fun ha hd => ⟨s.setMem (s.mem.store addr w v), ?_, fun k hk => ?_, fun a hout => ?_, rfl, rfl,
    ⟨rfl, rfl, rfl, rfl, rfl⟩, ?_⟩⟩
  · exact memWrite_eq_error.mpr (.inl ⟨aligned_eq_false_iff.mpr ha, rfl⟩)
  · exact memWrite_eq_error.mpr (.inr ⟨aligned_iff.mpr ha, (allData_of_aligned hp ha).trans hd, rfl⟩)
  · exact memWrite_eq_ok.mpr ⟨aligned_iff.mpr ha, (allData_of_aligned hp ha).trans hd, rfl⟩
  · rw [← byteAddr_of_aligned ha hk]
    exact Memory.read_store_inside s.mem hm addr w v k hk
  · refine Memory.read_store_outside s.mem hm addr w v a fun k hk => ?_
    rw [byteAddr_of_aligned ha hk]
    omega
  · rintro rfl
    have hpart := memRead_part (s := s.setMem (s.mem.store addr .word v)) hp ha hd
    refine ⟨?_, ?_, ?_⟩
    · have h0 := hpart .byte 0 (by decide) rfl
      rwa [State.setMem_mem, Memory.load_byte_store_word hm 0 (by decide), BitVec.add_zero] at h0
    · rw [hpart .byte 1 (by decide) rfl, State.setMem_mem, Memory.load_byte_store_word hm 1 (by decide)]; rfl
    · rw [hpart .half 2 (by decide) rfl, State.setMem_mem, Memory.load_half_store_word hm]

/-! ### What an instruction writes (spec 20 R45, R56) -/

/-- Every byte outside the data region reads as before. -/
def OnlyDataWritten (s t : State) : Prop := ∀ a, inData s.params a = false → t.mem.read a = s.mem.read a

section
variable {s t : State}

theorem OnlyDataWritten.of_mem_eq (h : t.mem = s.mem) : OnlyDataWritten s t := fun _ _ => by rw [h]

theorem loadRegs_mem {rs : List Reg} {addr : Word} (h : loadRegs rs addr s = .ok t) : t.mem = s.mem := by
  rw [(loadRegs_frame h).1]

theorem exceptionReturn_mem (h : exceptionReturn s = .next t) : t.mem = s.mem := by
  obtain ⟨u, ret, psr, hu, -, -, -, rfl⟩ := exceptionReturn_eq_next.mp h
  exact (loadRegs_mem hu :)

theorem bxWritePC_mem {target : Word} (h : bxWritePC target s = .next t) : t.mem = s.mem := by
  rcases bxWritePC_eq_next.mp h with ⟨-, h⟩ | ⟨-, -, rfl⟩
  · exact exceptionReturn_mem h
  · rfl

theorem loadInto_mem {rt : Reg} {addr : Word} {w : Width} {e : Word → Word} (h : loadInto rt addr w e s = .next t) :
    t.mem = s.mem := by
  obtain ⟨v, -, h⟩ := orFault_eq_next.mp h
  cases h; rfl

theorem writeOrBranch_mem {rd : Reg} {v : Word} (h : writeOrBranch rd v s = .next t) : t.mem = s.mem := by
  unfold writeOrBranch at h
  split at h <;> cases h <;> rfl

theorem writeSysReg_mem {i : Instr} {r : SysReg} {v : Word} (h : writeSysReg i r v s = .next t) : t.mem = s.mem := by
  cases r
  case control =>
    simp only [writeSysReg, raiseMalformed] at h
    split at h <;> cases h
    rfl
  all_goals cases h; rfl

theorem execPop_mem {p : Bool} {list : BitVec 8} (h : execPop p list s = .next t) : t.mem = s.mem := by
  obtain ⟨u, hu, h⟩ := orFault_eq_next.mp h
  cases p
  case false => cases h; exact (loadRegs_mem hu :)
  case true =>
    obtain ⟨target, -, h⟩ := orFault_eq_next.mp h
    exact (bxWritePC_mem h).trans (loadRegs_mem hu :)

theorem OnlyDataWritten.storeFrom {rt : Reg} {addr : Word} {w : Width} (hm : s.mem.wf) (h : storeFrom rt addr w s = .next t) :
    OnlyDataWritten s t := by
  obtain ⟨u, hu, h⟩ := orFault_eq_next.mp h
  cases h
  exact (memWrite_mem hu).2.2 hm

theorem OnlyDataWritten.storeRegs {rs : List Reg} {addr : Word} (hm : s.mem.wf) (h : storeRegs rs addr s = .ok t) :
    OnlyDataWritten s t :=
  (storeRegs_frame h).2.2.1 hm

/-- What any instruction may do to the bytes of memory. -/
theorem OnlyDataWritten.exec {i : Instr} (hm : s.mem.wf) (h : exec i s = .next t) : OnlyDataWritten s t := by
  cases i
  case strReg | strhReg | strbReg | strImm | strbImm | strhImm | strSp => exact .storeFrom hm h
  case stm =>
    obtain ⟨u, hu, h⟩ := orFault_eq_next.mp h
    cases h
    exact (OnlyDataWritten.storeRegs hm hu :)
  case push =>
    obtain ⟨-, u, hu, rfl⟩ := execPush_eq_next.mp h
    exact (OnlyDataWritten.storeRegs hm hu :)
  all_goals refine .of_mem_eq ?_
  case addsReg | subsReg | addsImm3 | subsImm3 | addsImm8 | subsImm8 | adcs | sbcs | rsbs | cmpImm | cmpReg | cmn | cmpHi | movsImm |
      ands | eors | orrs | bics | mvns | muls | tst | lslsImm | lsrsImm | asrsImm | lslsReg | lsrsReg | asrsReg | rors | adr | addSpRd |
      addSpImm7 | subSpImm7 | sxth | sxtb | uxth | uxtb | rev | rev16 | revsh | b | bl | bkpt | nop => cases h; rfl
  case wfe | wfi | svc | udf | udfW => cases h
  case addHi | movHi => exact writeOrBranch_mem h
  case ldrLit | ldrReg | ldrhReg | ldrbReg | ldrshReg | ldrsbReg | ldrImm | ldrbImm | ldrhImm | ldrSp => exact loadInto_mem h
  case ldm =>
    obtain ⟨u, hu, h⟩ := orFault_eq_next.mp h
    cases h
    rw [State.cost_mem]
    split <;> exact (loadRegs_mem hu :)
  case pop => exact execPop_mem h
  case bx rm => exact bxWritePC_mem (s := s.cost .bx) h
  case yield | sev | cpsie | cpsid | dsb | dmb | isb | mrs =>
    obtain ⟨-, h⟩ := whenSystemExt_eq_next.mp h
    cases h; rfl
  case msr =>
    obtain ⟨-, h⟩ := whenSystemExt_eq_next.mp h
    exact writeSysReg_mem h
  case bCond =>
    simp only [Machine.exec, execBCond] at h
    split at h <;> cases h <;> rfl
  case blx =>
    simp only [Machine.exec, execBlx] at h
    split at h <;> cases h
    rfl
end

/-- Settles O12: only stores write memory, and each byte they write was checked to lie in the data region. -/
theorem onlyDataRegionWritten : Obligations.OnlyDataRegionWritten :=
  fun _ _ _ hm h => OnlyDataWritten.exec hm h

end Sys2Proof.Machine
end

section
/-! PROOFS. The invariant of the machine is kept by every part of a tick (spec 20 R47, R48, 10 R35, R36, 49 R205 to R221). -/

namespace Sys2Proof.Machine

/-! ### Memory inside the regions (spec 20 R48) -/

/-- A listed byte reads as it is listed. -/
theorem Memory.read_of_mem {m : Memory} (hm : m.wf) {c : Host.Cell} (hc : c ∈ m) : m.read c.1 = c.2 := by
  induction m with
  | nil => cases hc
  | cons d m ih =>
    obtain ⟨k, v⟩ := d
    obtain ⟨hk, -, hm'⟩ := (Memory.wf_cons k v m).mp hm
    rcases List.mem_cons.mp hc with rfl | hc
    · simp [Memory.read]
    · have hlt := hk c hc
      rw [Memory.read, if_neg hlt.not_gt, if_neg hlt.ne', ih hm' hc]

/-- An address that reads as another byte than the unlisted one is listed. -/
theorem Memory.mem_of_read_ne {m : Memory} {a : Nat} (h : m.read a ≠ Memory.unlisted) : ∃ c ∈ m, c.1 = a := by
  induction m with
  | nil => exact absurd rfl h
  | cons d m ih =>
    obtain ⟨k, v⟩ := d
    simp only [Memory.read] at h
    split at h
    · exact absurd rfl h
    · split at h
      · rename_i hak; exact ⟨(k, v), by simp, hak.symm⟩
      · obtain ⟨c, hc, rfl⟩ := ih h
        exact ⟨c, by simp [hc], rfl⟩

/-- Writes to the data region list no byte outside the regions: it would read as it did before, so it was listed before. -/
theorem OnlyDataWritten.listedMapped {s t : State} (h : OnlyDataWritten s t) (hp : t.params = s.params) (ht : t.mem.wf)
    (hs : listedMapped s) : listedMapped t := by
  intro c hc
  rw [hp]
  by_contra hno
  have hdata : inData s.params c.1 = false := by
    rw [Bool.eq_false_iff]; exact fun hd => hno (mapped_of_inData hd)
  have hread : s.mem.read c.1 ≠ Memory.unlisted := by
    rw [← h c.1 hdata, Memory.read_of_mem ht hc]; exact ht.2 c hc
  obtain ⟨c', hc', heq⟩ := Memory.mem_of_read_ne hread
  exact hno (heq ▸ hs c' hc')

/-! ### The CPU step -/

/-- The advance writes `pc_reg` only (spec 40 R88). -/
theorem advance_eq_setPcReg (i : Instr) (s : State) : ∃ v, advance i s = s.setPcReg v := by
  unfold advance
  split
  · exact ⟨s.cpu.pcReg, rfl⟩
  · split <;> exact ⟨_, rfl⟩

/-- A CPU step writes the data region only (spec 20 R45). -/
theorem OnlyDataWritten.cpuStep {s t : State} (hm : s.mem.wf) (h : cpuStep s = .next t) : OnlyDataWritten s t := by
  obtain ⟨-, w, i, u, -, -, hu, rfl⟩ := exists_of_cpuStep_eq_next h
  obtain ⟨v, hv⟩ := advance_eq_setPcReg i u
  rw [hv]
  exact (OnlyDataWritten.exec (s := s.setBranchTaken false) hm hu :)

/-- A CPU step keeps the inert fields: the mode only ever becomes Thread, and `pending` stays (spec 10 R35, R36). -/
theorem cpuStep_inert {s t : State} (hs : s.cpu.inert) (h : cpuStep s = .next t) : t.cpu.inert := by
  obtain ⟨-, w, i, u, -, -, hu, rfl⟩ := exists_of_cpuStep_eq_next h
  obtain ⟨v, hv⟩ := advance_eq_setPcReg i u
  obtain ⟨-, -, hmode, hpend, -⟩ := StatusEffect.exec hu
  obtain ⟨hthread, hzero⟩ := hs
  rw [hv]
  refine ⟨?_, hpend.trans hzero⟩
  by_contra hne
  exact hne (hmode fun heq => hne (heq.trans hthread)).1

theorem State.NoNegativeEnergy.of_eq {s t : State} (hs : s.NoNegativeEnergy) (hstored : t.battery.stored = s.battery.stored)
    (hrate : t.loop.rate = s.loop.rate) (hharvested : t.loop.totals.energyHarvested = s.loop.totals.energyHarvested) :
    t.NoNegativeEnergy :=
  ⟨hstored ▸ hs.stored, hrate ▸ hs.rate, hharvested ▸ hs.harvested⟩

theorem State.Inv.cpuStep {s t : State} (hs : s.Inv) (h : cpuStep s = .next t) : t.Inv := by
  obtain ⟨⟨hscheme, hbattery, henv, hloop, hparams⟩, hwf⟩ := CoreStep.cpuStep h
  obtain ⟨hclock, hcap, hsample⟩ := hs.collaborators
  have hnum : t.num = s.num := congrArg Config.Params.num hparams
  exact {
    paramsLegal := hparams ▸ hs.paramsLegal
    memWf := hwf hs.memWf
    memMapped := (OnlyDataWritten.cpuStep hs.memWf h).listedMapped hparams (hwf hs.memWf) hs.memMapped
    cpuInert := cpuStep_inert hs.cpuInert h
    slotInert := hscheme ▸ hs.slotInert
    collaborators := ⟨by rw [hnum, hscheme]; exact hclock, by rw [hnum, hbattery]; exact hcap, by rw [hnum, henv]; exact hsample⟩
    progress := hloop ▸ hs.progress
    energy := fun hn => (hs.energy (hnum ▸ hn)).of_eq (by rw [hbattery]) (by rw [hloop]) (by rw [hloop])
    time := by rw [hnum, hloop, hscheme]; exact hs.time
    started := hloop ▸ hs.started }

/-! ### The bookkeeping of a tick -/

/-- What is left to show of a part of a tick that touches neither memory nor what is constant over a run. -/
theorem State.Inv.of_untouched {s t : State} (hs : s.Inv) (h : Untouched s t) (cpuInert : t.cpu.inert)
    (slotInert : ∀ c, t.scheme.slot = some c → c.inert) (progress : t.loop.noProgress < Config.noProgressLimit)
    (energy : s.num = .rational → t.NoNegativeEnergy)
    (time : t.loop.time = s.num.div (s.num.ofNat t.loop.elapsed) s.scheme.clockFrequency)
    (started : t.loop.cur.cycleStart ≤ t.loop.elapsed) : t.Inv := by
  obtain ⟨hclock, hcap, hsample⟩ := hs.collaborators
  have hnum : t.num = s.num := congrArg Config.Params.num h.params
  exact {
    paramsLegal := h.params ▸ hs.paramsLegal
    memWf := h.mem ▸ hs.memWf
    memMapped := by unfold listedMapped; rw [h.params, h.mem]; exact hs.memMapped
    cpuInert, slotInert, progress, started
    collaborators := ⟨by rw [hnum, h.clockFrequency]; exact hclock, by rw [hnum, h.capacitor]; exact hcap,
      by rw [hnum, h.env]; exact hsample⟩
    energy := fun hn => energy (hnum ▸ hn)
    time := by rw [hnum, h.clockFrequency]; exact time }

/-- Where the numbers are exact, a draw leaves what is stored not negative. -/
theorem draw_stored_nonneg {n : Config.NumType} (hn : n = .rational) (b : Battery) (asked : Quantity) (h : 0 ≤ b.stored) :
    0 ≤ (b.draw n asked).stored := by
  subst hn
  exact b.draw_stored_nonneg asked h

section
variable {s : State}

theorem State.Inv.isActive (hs : s.Inv) : s.isActive.2.Inv :=
  hs.of_untouched .isActive hs.cpuInert hs.slotInert hs.progress
    (fun hn => (hs.energy hn).of_eq rfl rfl rfl) hs.time hs.started

/-- A restore copies an inert CPU State, or leaves the one there is, and a new period starts at 0 until the activation sets it. -/
theorem State.Inv.reactivate (hs : s.Inv) : (reactivate s).1.Inv := by
  have hcpu : (Machine.reactivate s).1.cpu = s.scheme.slot.getD s.cpu := State.restore_cpu s.useBattery
  have hslot : (Machine.reactivate s).1.scheme.slot = none := State.restore_slot s.useBattery
  refine hs.of_untouched .reactivate ?_ ?_ hs.progress (fun hn => ?_) hs.time (Nat.zero_le _)
  · rw [hcpu]
    cases h : s.scheme.slot with
    | none => exact hs.cpuInert
    | some saved => exact hs.slotInert saved h
  · rw [hslot]; rintro c ⟨⟩
  · exact ⟨draw_stored_nonneg hn _ _ (hs.energy hn).stored, (hs.energy hn).rate, (hs.energy hn).harvested⟩

theorem State.Inv.activate (hs : s.Inv) : (activate s).1.Inv := by
  have hr : (if s.loop.first then (s, 0) else Machine.reactivate s).1.Inv := by
    split
    · exact hs
    · exact hs.reactivate
  exact hr.of_untouched ⟨rfl, rfl, rfl, rfl, rfl, rfl, rfl, rfl, rfl⟩ hr.cpuInert hr.slotInert hr.progress
    (fun hn => (hr.energy hn).of_eq rfl rfl rfl) hr.time le_rfl

/-- A deactivation that completes leaves the no-progress count under its limit (spec 49 R217). -/
theorem State.Inv.deactivate {r : State} (hs : s.Inv) (h : deactivate s = .ok r) : r.Inv := by
  obtain ⟨n, rfl, hn⟩ := deactivate_eq_ok h
  have hlimit : n < Config.noProgressLimit := by
    rcases hn with ⟨-, -, hlt⟩ | ⟨-, rfl⟩
    · exact hlt
    · decide
  exact hs.of_untouched (.deactivate h) hs.cpuInert hs.slotInert hlimit
    (fun hn => (hs.energy hn).of_eq rfl rfl rfl) hs.time hs.started

theorem State.Inv.transition {r : State} {c : Nat} (hs : s.Inv) (h : transition s = .ok (r, c)) : r.Inv := by
  rcases transition_eq_ok h with ⟨-, -, h⟩ | ⟨-, -, rfl, -⟩ | ⟨-, -, rfl, -⟩ | ⟨-, -, h, -⟩
  · obtain rfl : r = (Machine.activate s.isActive.2).1 := congrArg Prod.fst h
    exact hs.isActive.activate
  · exact hs.isActive
  · exact hs.isActive
  · exact hs.isActive.deactivate h

/-- In exact arithmetic the accounting of an active tick leaves what is stored not negative: it only draws (spec 49 R218). -/
theorem retire_stored_nonneg (hn : s.num = .rational) (tc : Nat) (h : 0 ≤ s.battery.stored) :
    0 ≤ (retire tc s).1.battery.stored := by
  have hinstr : 0 ≤ (accountInstr s).battery.stored := draw_stored_nonneg hn _ _ h
  rcases retire_eq tc s with ⟨-, h⟩ | ⟨-, h⟩ <;> rw [h]
  · exact hinstr
  · exact draw_stored_nonneg hn _ _ hinstr

theorem State.Inv.retire (hs : s.Inv) (tc : Nat) : (retire tc s).1.Inv := by
  have hloop := retire_loop tc s
  refine hs.of_untouched .retire ?_ ?_ ?_ (fun hn => ⟨retire_stored_nonneg hn tc (hs.energy hn).stored, ?_, ?_⟩) ?_ ?_
  · rw [retire_cpu]; exact hs.cpuInert
  · rw [retire_slot]
    split
    · rintro c ⟨⟩; exact hs.cpuInert
    · exact hs.slotInert
  · rw [hloop]; exact hs.progress
  · rw [hloop]; exact (hs.energy hn).rate
  · rw [hloop]; exact (hs.energy hn).harvested
  · rw [hloop]; exact hs.time
  · rw [retire_cycleStart, hloop]; exact hs.started

/-! ### The end of a tick -/

theorem Untouched.harvest {tc : Nat} : Untouched s (harvest tc s) := by
  unfold Machine.harvest
  split <;> exact ⟨rfl, rfl, rfl, rfl, rfl, rfl, rfl, rfl, rfl⟩

theorem Untouched.sample : Untouched s (sample s) := by
  unfold Machine.sample
  split <;> exact ⟨rfl, rfl, rfl, rfl, rfl, rfl, rfl, rfl, rfl⟩

theorem Untouched.finish : Untouched s (finish s) := by
  unfold Machine.finish
  split <;> exact ⟨rfl, rfl, rfl, rfl, rfl, rfl, rfl, rfl, rfl⟩

theorem Untouched.closeTick {tc : Nat} : Untouched s (closeTick tc s) :=
  have passTime : Untouched s (passTime tc s) := ⟨rfl, rfl, rfl, rfl, rfl, rfl, rfl, rfl, rfl⟩
  have clockTime (u : State) : Untouched u (clockTime u) := ⟨rfl, rfl, rfl, rfl, rfl, rfl, rfl, rfl, rfl⟩
  (((passTime.trans .harvest).trans (clockTime _)).trans .sample).trans .finish

/-- In exact arithmetic the end of a tick adds what a battery accepts of a charge that is not negative, and samples a rate that is not
(spec 49 R206, R208, R220). -/
theorem State.NoNegativeEnergy.closeTick (hn : s.num = .rational) (hs : s.NoNegativeEnergy) (tc : Nat) :
    (closeTick tc s).NoNegativeEnergy := by
  obtain ⟨hstored, hrate, hharvested⟩ := hs
  have hamount : 0 ≤ Machine.harvested tc s := by
    rw [Machine.harvested, hn]
    exact (s.battery.accepts_mem (mul_nonneg hrate (Nat.cast_nonneg tc))).1
  refine ⟨?_, ?_, ?_⟩
  · rw [closeTick_battery]
    split
    · rw [Battery.harvest, hn]; exact add_nonneg hstored hamount
    · exact hstored
  · rw [closeTick_rate]
    split
    · rw [hn]; exact s.env.chargingRate_nonneg _ _
    · exact hrate
  · rw [closeTick_energyHarvested]
    split
    · rw [hn]; exact add_nonneg hharvested hamount
    · exact hharvested

theorem State.Inv.closeTick (hs : s.Inv) (tc : Nat) : (closeTick tc s).Inv := by
  refine hs.of_untouched .closeTick ?_ ?_ ?_ (fun hn => (hs.energy hn).closeTick hn tc) ?_ ?_
  · rw [closeTick_cpu]; exact hs.cpuInert
  · rw [closeTick_slot]
    split
    · rintro c ⟨⟩
    · exact hs.slotInert
  · rw [closeTick_noProgress]; exact hs.progress
  · rw [closeTick_time, closeTick_elapsed]
  · have hstart : (Machine.closeTick tc s).loop.cur.cycleStart = s.loop.cur.cycleStart := by
      rw [closeTick_cur]; split <;> rfl
    rw [hstart, closeTick_elapsed]
    exact hs.started.trans (Nat.le_add_right ..)
end

/-- Settles O59: a step is a transition, in an active tick a CPU step with its accounting, and the end of the tick, and each of these
keeps the invariant. -/
theorem stepKeepsInvariant : Obligations.StepKeepsInvariant := by
  intro s t hs h
  rcases step_eq_next h with ⟨-, rfl⟩ | ⟨-, r, c, hr, ⟨-, u, hu, rfl⟩ | ⟨-, rfl⟩⟩
  · exact hs
  · exact (((hs.transition hr).cpuStep hu).retire c).closeTick _
  · exact (hs.transition hr).closeTick _

end Sys2Proof.Machine
end

section
/-! PROOFS. The fields of a word that is a sum, and the decoder on the words of an instruction (spec 30 R66 to R75). -/

namespace Sys2Proof

/-! ### Fields of a sum (spec 30 R67, R71) -/

/-- Bits below a field do not reach it. -/
@[simp] theorem field_add {w x lo len : Nat} (h : w % 2 ^ lo + x < 2 ^ lo) : field (w + x) lo len = field w lo len := by
  have hx : x < 2 ^ lo := by omega
  rw [field, field, Nat.add_div_eq_of_add_mod_lt (by rwa [Nat.mod_eq_of_lt hx]), Nat.div_eq_of_lt hx, Nat.add_zero]

/-- The lowest field of a sum. -/
@[simp] theorem field_add_self {w x len : Nat} (hx : x < 2 ^ len) (hw : w % 2 ^ len = 0) : field (w + x) 0 len = x := by
  rw [field, Nat.pow_zero, Nat.div_one, Nat.add_mod, hw, Nat.zero_add, Nat.mod_mod, Nat.mod_eq_of_lt hx]

/-- A field above the lowest one of a sum. -/
@[simp] theorem field_add_mul {w x k lo len : Nat} (hk : k = 2 ^ lo) (hx : x < 2 ^ len) (hw : w / k % 2 ^ len = 0) :
    field (w + x * k) lo len = x := by
  rw [field, ← hk, Nat.add_mul_div_right _ _ (hk ▸ Nat.two_pow_pos lo), Nat.add_mod, hw, Nat.zero_add, Nat.mod_mod,
    Nat.mod_eq_of_lt hx]

@[simp] theorem field_mul {x k lo len : Nat} (hk : k = 2 ^ lo) (hx : x < 2 ^ len) : field (x * k) lo len = x := by
  simpa using field_add_mul (w := 0) hk hx (by simp)

@[simp] theorem field_of_lt {w lo len : Nat} (h : w < 2 ^ lo) : field w lo len = 0 := by
  rw [field, Nat.div_eq_of_lt h, Nat.zero_mod]

/-- A field of a numeral. -/
@[simp] theorem field_ofNat (n lo len : Nat) :
    field (no_index (OfNat.ofNat n)) lo len = OfNat.ofNat n / 2 ^ lo % 2 ^ len := rfl

@[simp] theorem lowRegAt_val (w lo : Nat) : (lowRegAt w lo).val = field w lo 3 := rfl

@[simp] theorem regAt_val (w lo : Nat) : (regAt w lo).val = field w lo 4 := rfl

@[simp] theorem hiRegAt_val (w : Nat) : (hiRegAt w).val = (field w 7 1 * 8 + field w 0 3) % 16 := rfl

@[simp] theorem immAt_toNat (n w lo : Nat) : (immAt n w lo).toNat = field w lo n := rfl

@[simp] theorem lowRegAt_eq_iff {w lo : Nat} {r : LowReg} : lowRegAt w lo = r ↔ field w lo 3 = r.val := Fin.ext_iff

@[simp] theorem regAt_eq_iff {w lo : Nat} {r : Reg} : regAt w lo = r ↔ field w lo 4 = r.val := Fin.ext_iff

@[simp] theorem immAt_eq_iff {n w lo : Nat} {v : BitVec n} : immAt n w lo = v ↔ field w lo n = v.toNat := BitVec.toNat_eq

@[simp] theorem hiRegAt_eq_iff {w : Nat} {r : Reg} :
    hiRegAt w = r ↔ field w 7 1 = r.val / 8 ∧ field w 0 3 = r.val % 8 := by
  have h7 : field w 7 1 < 2 := Nat.mod_lt _ (by decide)
  have h0 : field w 0 3 < 8 := Nat.mod_lt _ (by decide)
  rw [Fin.ext_iff, hiRegAt_val]
  omega

/-! ### Slices and masks of words -/

/-- A slice of a word is its field. -/
theorem extractLsb'_eq_iff {n lo len : Nat} {x : BitVec n} {v : BitVec len} :
    x.extractLsb' lo len = v ↔ field x.toNat lo len = v.toNat := by
  rw [BitVec.toNat_eq, BitVec.extractLsb'_toNat, Nat.shiftRight_eq_div_pow, field]

/-- A mask of high bits sees only the slice it covers. -/
theorem and_append_zero {m n : Nat} (x : BitVec (m + n)) (c : BitVec m) :
    x &&& (c ++ 0#n) = (x.extractLsb' n m &&& c) ++ 0#n := by
  conv_lhs => rw [← BitVec.extractLsb'_append_extractLsb' (x := x), BitVec.and_append, BitVec.and_zero]

/-- A concatenation as a number. -/
theorem toNat_append_eq_add {m n : Nat} (a : BitVec m) (b : BitVec n) : (a ++ b).toNat = a.toNat * 2 ^ n + b.toNat := by
  rw [BitVec.toNat_append, ← Nat.shiftLeft_add_eq_or_of_lt b.isLt, Nat.shiftLeft_eq]

/-! ### The row a word matches (spec 30 R66, R73, R80) -/

theorem isWide_iff_le {hw1 : Half} : isWide hw1 = true ↔ 0xE800 ≤ hw1.toNat := by
  rw [isWide, decide_eq_true_iff, field]; omega

/-- The exit sentinel is a BKPT word (spec 30 R80). -/
theorem isExitWord_iff {hw1 : Half} : isExitWord hw1 = true ↔ field hw1.toNat 8 8 = 0xBE := by
  have hmask : hw1 &&& Config.exitMask = (hw1.extractLsb' 8 8 &&& BitVec.allOnes 8) ++ 0#8 :=
    and_append_zero (m := 8) (n := 8) hw1 (BitVec.allOnes 8)
  rw [isExitWord, beq_iff_eq, hmask, BitVec.and_allOnes]
  exact (BitVec.append_left_inj (s₂ := 0xBE#8) 0#8).trans extractLsb'_eq_iff

/-- The exit sentinel is the BKPT row of class 1011, so that looking for it first changes nothing. -/
theorem decodeRow_of_not_isWide {hw1 : Half} {hw2 : Option Half} (h : isWide hw1 = false) :
    decodeRow hw1 hw2 = decode16 hw1.toNat := by
  simp only [decodeRow, h, Bool.false_eq_true, if_false]
  split
  case isTrue hexit =>
    rw [isExitWord_iff, field] at hexit
    have h12 : field hw1.toNat 12 4 = 11 := by unfold field; omega
    have h8 : field hw1.toNat 8 4 = 14 := by unfold field; omega
    simp [decode16, decode11, h12, h8]
  case isFalse => rfl

/-- The halfword of a number. -/
theorem enc16_eq {n : Nat} {hw1 : Half} (h : hw1.toNat = n) : enc16 n = (hw1, none) := by
  rw [enc16, ← h, BitVec.ofNat_toNat, BitVec.setWidth_eq]

theorem enc32_eq {n m : Nat} {hw1 hw2 : Half} (h1 : hw1.toNat = n) (h2 : hw2.toNat = m) : enc32 n m = (hw1, some hw2) := by
  rw [enc32, ← h1, ← h2, BitVec.ofNat_toNat, BitVec.ofNat_toNat, BitVec.setWidth_eq, BitVec.setWidth_eq]

@[simp] theorem decodeRow_enc16 {n : Nat} (h : n < 0xE800) : decodeRow (enc16 n).1 (enc16 n).2 = decode16 n := by
  rw [enc16, decodeRow_of_not_isWide (Laws.isWide_of_lt h), BitVec.toNat_ofNat, Nat.mod_eq_of_lt (by omega)]

@[simp] theorem decodeRow_enc32 {n m : Nat} (h : 0xE800 ≤ n) (hn : n < 0x10000) (hm : m < 0x10000) :
    decodeRow (enc32 n m).1 (enc32 n m).2 = decode32 n m := by
  simp only [enc32, decodeRow, Laws.isWide_of_ge h hn, if_true, BitVec.toNat_ofNat, Nat.mod_eq_of_lt hn, Nat.mod_eq_of_lt hm]

@[simp] theorem Cond.ofNat?_toNat (c : Cond) : Cond.ofNat? c.toNat = some c := by cases c <;> rfl

@[simp] theorem SysReg.ofNat?_toNat (r : SysReg) : SysReg.ofNat? r.toNat = some r := by cases r <;> rfl

theorem SysReg.toNat_lt (r : SysReg) : r.toNat < 21 := by cases r <;> decide

/-- The row that an instruction's words match is its own, with its own operands, whether or not it meets the row's constraint. The
cases are the classes of spec 30 R73, each with its sub-tables. -/
theorem decodeRow_encode (i : Instr) : decodeRow (encode i).1 (encode i).2 = .ok i := by
  cases i
  case lslsImm | lsrsImm => simp (disch := omega) [encode, decode16, decode0]
  case asrsImm | addsReg | subsReg | addsImm3 | subsImm3 => simp (disch := omega) [encode, decode16, decode1]
  case movsImm | cmpImm => simp (disch := omega) [encode, decode16, decode2]
  case addsImm8 | subsImm8 => simp (disch := omega) [encode, decode16, decode3]
  case ands | eors | lslsReg | lsrsReg | asrsReg | adcs | sbcs | rors | tst | rsbs | cmpReg | cmn | orrs | muls | bics | mvns =>
    simp (disch := omega) [encode, decode16, decode4, decodeDp]
  case addHi | cmpHi | movHi => simp (disch := omega) [encode, encHi, decode16, decode4, decodeHi]
  case bx rm | blx rm =>
    have hlow : ∀ op, op % 8 = 0 → field (op + rm.val * 8) 0 3 = 0 := fun op hop => by unfold field; omega
    simp (disch := omega) [encode, decode16, decode4, decodeHi, hlow]
  case ldrLit => simp (disch := omega) [encode, decode16, decode4]
  case strReg | strhReg | strbReg | ldrsbReg | ldrReg | ldrhReg | ldrbReg | ldrshReg =>
    simp (disch := omega) [encode, decode16, decode5]
  case strImm | ldrImm => simp (disch := omega) [encode, decode16, decode6]
  case strbImm | ldrbImm => simp (disch := omega) [encode, decode16, decode7]
  case strhImm | ldrhImm => simp (disch := omega) [encode, decode16, decode8]
  case strSp | ldrSp => simp (disch := omega) [encode, decode16, decode9]
  case adr | addSpRd => simp (disch := omega) [encode, decode16, decode10]
  case addSpImm7 | subSpImm7 => simp (disch := omega) [encode, decode16, decode11, decodeSpAdjust]
  case sxth | sxtb | uxth | uxtb => simp (disch := omega) [encode, decode16, decode11, decodeExtend]
  case rev | rev16 | revsh => simp (disch := omega) [encode, decode16, decode11, decodeReverse]
  case push r _ | pop r _ => cases r <;> simp (disch := omega) [encode, decode16, decode11]
  case bkpt => simp (disch := omega) [encode, decode16, decode11]
  case nop | yield | wfe | wfi | sev | cpsie | cpsid => rfl
  case stm | ldm => simp (disch := omega) [encode, decode16, decode12]
  case bCond c _ =>
    have hc := Laws.Cond.toNat_lt c
    simp (disch := omega) [encode, decode16, decode13]
  case udf | svc => simp (disch := omega) [encode, decode16, decode13, Cond.ofNat?]
  case b => simp (disch := omega) [encode, decode16, decode14]
  case bl s imm10 j1 j2 imm11 =>
    have h12 : field (0xD000 + j1.toNat * 8192) 12 1 = 1 := by unfold field; omega
    simp (disch := omega) [encode, decode32, h12]
  case msr r _ | mrs _ r =>
    have hr := SysReg.toNat_lt r
    simp (disch := omega) [encode, decode32, withSysReg]
  case dsb | dmb | isb => rfl
  case udfW imm4 imm12 =>
    have hop : ∀ k < 0xF7F0, 0xF7F0 + imm4.toNat ≠ k := fun k hk => by omega
    simp (disch := omega) [encode, decode32, hop]

/-- The decoder on an instruction's own words: the instruction, or the failed constraint of its row. -/
theorem decode_encode (i : Instr) :
    decode (encode i).1 (encode i).2 = if i.WellFormed then .ok i else .error .constraintFails := by
  rw [decode, decodeRow_encode]

/-- Settles O5: the row an instruction's words match is its own row with its own operands, and it meets the constraint. -/
theorem decodeOfEncode : Obligations.DecodeOfEncode := fun i hi => by rw [decode_encode, if_pos hi]

/-- An instruction is what its words decode to. -/
theorem decode_eq_ok_of_encode_eq {i : Instr} {hw1 : Half} {hw2 : Option Half} (h : encode i = (hw1, hw2)) (hi : i.WellFormed) :
    decode hw1 hw2 = .ok i := by
  simpa only [h] using decodeOfEncode i hi

/-- Settles O4: each word is the one that its instruction encodes to. -/
theorem sampleWordsDecode : Obligations.SampleWordsDecode := by
  unfold Obligations.SampleWordsDecode
  and_intros <;> exact decode_eq_ok_of_encode_eq rfl rfl

end Sys2Proof
end

section
/-! PROOFS. From the decoded instruction back to its words (spec 30 R75), and the width of an instruction (spec 30 R66). -/

namespace Sys2Proof

theorem Cond.toNat_of_ofNat? {n : Nat} {c : Cond} (h : Cond.ofNat? n = some c) : c.toNat = n := by
  unfold Cond.ofNat? at h
  split at h <;> cases h <;> rfl

theorem Cond.le_of_ofNat?_eq_none {n : Nat} (h : Cond.ofNat? n = none) : 14 ≤ n := by
  by_contra hn
  interval_cases n <;> cases h

theorem SysReg.toNat_of_ofNat? {n : Nat} {r : SysReg} (h : SysReg.ofNat? n = some r) : r.toNat = n := by
  unfold SysReg.ofNat? at h
  split at h <;> cases h <;> rfl

/-! ### One lemma per table with sub-tables of its own: the fields of the operands and the fixed bits make up the word -/

section
variable {w : Nat} {i : Instr}

theorem encode_of_decodeDp (hw : w / 2 ^ 10 = 0b010000) (h : decodeDp w = .ok i) : encode i = enc16 w := by
  unfold decodeDp at h
  split at h <;> cases h <;> refine congrArg enc16 ?_ <;> simp only [lowRegAt_val, field, imp_false] at * <;> omega

theorem encode_of_decodeHi (hw : w / 2 ^ 10 = 0b010001) (h : decodeHi w = .ok i) : encode i = enc16 w := by
  unfold decodeHi at h
  repeat' split at h
  all_goals cases h <;> refine congrArg enc16 ?_ <;> simp only [regAt_val, hiRegAt_val, field, imp_false] at * <;> omega

theorem encode_of_decode4 (hw : w / 2 ^ 12 = 0b0100) (h : decode4 w = .ok i) : encode i = enc16 w := by
  unfold decode4 at h
  split at h
  case isTrue h11 =>
    cases h
    refine congrArg enc16 ?_
    simp only [lowRegAt_val, immAt_toNat, field] at *
    omega
  case isFalse h11 =>
    split at h
    case isTrue h10 => exact encode_of_decodeDp (by unfold field at h11 h10; omega) h
    case isFalse h10 => exact encode_of_decodeHi (by unfold field at h11 h10; omega) h

theorem encode_of_decode11 (hw : w / 2 ^ 12 = 0b1011) (h : decode11 w = .ok i) : encode i = enc16 w := by
  simp only [decode11, decodeSpAdjust, decodeExtend, decodeCps, decodeReverse, decodeHint] at h
  repeat' split at h
  all_goals
    cases h <;> refine congrArg enc16 ?_ <;>
      simp only [lowRegAt_val, immAt_toNat, field, imp_false, Bool.toNat_false, Bool.toNat_true] at * <;> omega

theorem encode_of_decode13 (hw : w / 2 ^ 12 = 0b1101) (h : decode13 w = .ok i) : encode i = enc16 w := by
  unfold decode13 at h
  split at h
  case h_1 c hc =>
    cases h
    refine congrArg enc16 ?_
    simp only [Cond.toNat_of_ofNat? hc, immAt_toNat, field]
    omega
  case h_2 hc =>
    have hle := Cond.le_of_ofNat?_eq_none hc
    split at h <;> cases h <;> refine congrArg enc16 ?_ <;> simp only [immAt_toNat, field] at * <;> omega

theorem encode_of_decode16 (hw : w < 2 ^ 16) (h : decode16 w = .ok i) : encode i = enc16 w := by
  simp only [decode16, decode0, decode1, decode2, decode3, decode5, decode6, decode7, decode8, decode9, decode10, decode12,
    decode14] at h
  split at h
  case h_5 hclass => exact encode_of_decode4 (by unfold field at hclass; omega) h
  case h_12 hclass => exact encode_of_decode11 (by unfold field at hclass; omega) h
  case h_14 hclass => exact encode_of_decode13 (by unfold field at hclass; omega) h
  all_goals
    repeat' split at h
    all_goals
      cases h <;> refine congrArg enc16 ?_ <;> simp only [lowRegAt_val, immAt_toNat, field, imp_false] at * <;> omega

end

/-- What the rows of 32 bits match, and with which operands (spec 30 R75). -/
theorem decode32_eq_ok {h1 h2 : Nat} {i : Instr} (h : decode32 h1 h2 = .ok i) :
    (field h1 11 5 = 0b11110 ∧ field h2 14 2 = 0b11 ∧ field h2 12 1 = 1 ∧
      i = .bl (immAt 1 h1 10) (immAt 10 h1 0) (immAt 1 h2 13) (immAt 1 h2 11) (immAt 11 h2 0)) ∨
    (field h1 4 12 = 0xF38 ∧ field h2 8 8 = 0x88 ∧ ∃ r, SysReg.ofNat? (field h2 0 8) = some r ∧ i = .msr r (regAt h1 0)) ∨
    (h1 = 0xF3EF ∧ field h2 12 4 = 0x8 ∧ ∃ r, SysReg.ofNat? (field h2 0 8) = some r ∧ i = .mrs (regAt h2 8) r) ∨
    (h1 = 0xF3BF ∧ h2 = 0x8F4F ∧ i = .dsb) ∨ (h1 = 0xF3BF ∧ h2 = 0x8F5F ∧ i = .dmb) ∨
    (h1 = 0xF3BF ∧ h2 = 0x8F6F ∧ i = .isb) ∨
    (field h1 4 12 = 0xF7F ∧ field h2 12 4 = 0xA ∧ i = .udfW (immAt 4 h1 0) (immAt 12 h2 0)) := by
  unfold decode32 withSysReg at h
  repeat' split at h
  all_goals cases h <;> simp_all

theorem encode_of_decode32 {h1 h2 : Nat} {i : Instr} (hh1 : h1 < 2 ^ 16) (hh2 : h2 < 2 ^ 16) (h : decode32 h1 h2 = .ok i) :
    encode i = enc32 h1 h2 := by
  obtain ⟨h11, h14, h12, rfl⟩ | ⟨hop1, hop2, r, hr, rfl⟩ | ⟨rfl, hop2, r, hr, rfl⟩ | ⟨rfl, rfl, rfl⟩ | ⟨rfl, rfl, rfl⟩ |
    ⟨rfl, rfl, rfl⟩ | ⟨hop1, hop2, rfl⟩ := decode32_eq_ok h
  case inr.inl | inr.inr.inl =>
    refine congrArg₂ enc32 ?_ ?_ <;> simp only [SysReg.toNat_of_ofNat? hr, regAt_val, field] at * <;> omega
  case inr.inr.inr.inl | inr.inr.inr.inr.inl | inr.inr.inr.inr.inr.inl => rfl
  all_goals refine congrArg₂ enc32 ?_ ?_ <;> simp only [immAt_toNat, field] at * <;> omega

theorem encode_of_decodeRow {hw1 : Half} {hw2 : Option Half} {i : Instr} (hlen : hw2.isSome = isWide hw1)
    (h : decodeRow hw1 hw2 = .ok i) : encode i = (hw1, hw2) := by
  cases hw2 with
  | none =>
    rw [decodeRow_of_not_isWide hlen.symm] at h
    exact (encode_of_decode16 hw1.isLt h).trans (enc16_eq rfl)
  | some hw2 =>
    simp only [decodeRow, ← hlen, Option.isSome_some, if_true] at h
    exact (encode_of_decode32 hw1.isLt hw2.isLt h).trans (enc32_eq rfl rfl)

/-- What decodes matches a row and meets its constraint (spec 40 R90). -/
theorem decode_eq_ok {hw1 : Half} {hw2 : Option Half} {i : Instr} (h : decode hw1 hw2 = .ok i) :
    decodeRow hw1 hw2 = .ok i ∧ i.WellFormed := by
  unfold decode at h
  split at h
  case h_1 j hj =>
    split at h
    case isTrue hwf => cases h; exact ⟨hj, hwf⟩
    case isFalse => cases h
  case h_2 => cases h

/-- Settles O6: a row reads its operands from the fields that its fixed bits leave, so the operands give the word back. -/
theorem encodeOfDecode : Obligations.EncodeOfDecode := by
  intro hw1 hw2 i hlen h
  obtain ⟨hrow, hi⟩ := decode_eq_ok h
  exact ⟨encode_of_decodeRow hlen hrow, hi⟩

/-! ### The width of an instruction (spec 30 R66) -/

/-- Bits 15 to 11 as a number are 29 or more exactly when they are one of the three patterns. -/
theorem isWide_iff_extractLsb' {hw1 : Half} : isWide hw1 = true ↔
    hw1.extractLsb' 11 5 = 0b11101#5 ∨ hw1.extractLsb' 11 5 = 0b11110#5 ∨ hw1.extractLsb' 11 5 = 0b11111#5 := by
  have hlt : field hw1.toNat 11 5 < 32 := Nat.mod_lt _ (by decide)
  simp only [isWide, decide_eq_true_eq, extractLsb'_eq_iff, BitVec.toNat_ofNat, Nat.reducePow, Nat.reduceMod]
  omega

/-- A fetch reads one halfword, and a second one when the first announces it (spec 40 R85). -/
theorem fetch_eq_ok {s : Machine.State} {hw1 : Half} {hw2 : Option Half} (h : Machine.fetch s = .ok (hw1, hw2)) :
    Machine.fetchHalf s s.addr = .ok hw1 ∧
    ((isWide hw1 = false ∧ hw2 = none) ∨
      ∃ v, isWide hw1 = true ∧ hw2 = some v ∧ Machine.fetchHalf s (s.addr + 2#32) = .ok v) := by
  unfold Machine.fetch at h
  split at h
  case h_1 => cases h
  case h_2 hw1' hfirst =>
    split at h
    case isTrue hwide =>
      split at h
      case h_1 => cases h
      case h_2 hw2' hsecond => cases h; exact ⟨hfirst, .inr ⟨hw2', hwide, rfl, hsecond⟩⟩
    case isFalse hnarrow => cases h; exact ⟨hfirst, .inl ⟨Bool.eq_false_iff.mpr hnarrow, rfl⟩⟩

/-- Settles O7, by the two ways a fetch succeeds. -/
theorem instructionWidth : Obligations.InstructionWidth := by
  intro s hw1 hw2 h
  rw [← isWide_iff_extractLsb']
  obtain ⟨hfirst, ⟨hnarrow, rfl⟩ | ⟨v, hwide, rfl, hsecond⟩⟩ := fetch_eq_ok h
  · exact ⟨hfirst, nofun, by simp [hnarrow]⟩
  · exact ⟨hfirst, fun _ hv => Option.some.inj hv ▸ hsecond, by simp [hwide]⟩

end Sys2Proof
end

section
/-! PROOFS. The words that decode to no instruction (spec 30 R76, R77). -/

namespace Sys2Proof

open Machine (refusedWord hiWord f3 f4)

/-- The words of an instruction that breaks its row's constraint are refused (spec 30 R77). -/
theorem refusedWord_of_encode {i : Instr} {hw1 : Half} {hw2 : Option Half} (h : encode i = (hw1, hw2))
    (hi : i.wellFormed = false) : refusedWord hw1 hw2 := by
  have hd := decode_encode i
  rw [h, if_neg (by simp [hi])] at hd
  exact ⟨_, hd⟩

/-- A 16-bit word that matches no row is refused (spec 30 R76). -/
theorem refusedWord_of_decode16 {hw1 : Half} {n : Nat} {e : DecodeReject} (hw : hw1.toNat = n) (hn : n < 0xE800)
    (h : decode16 n = .error e) : refusedWord hw1 none := by
  have hrow := decodeRow_enc16 hn
  rw [enc16_eq hw, h] at hrow
  exact ⟨e, by rw [decode, hrow]⟩

/-- Two halfwords of a 32-bit row whose constraint holds (spec 30 R75, R77). -/
def AdmittedWide (h1 h2 : Nat) : Prop :=
  (field h1 11 5 = 0b11110 ∧ field h2 14 2 = 0b11 ∧ field h2 12 1 = 1) ∨
  (field h1 4 12 = 0xF38 ∧ field h2 8 8 = 0x88 ∧ field h1 0 4 ≠ 13 ∧ field h1 0 4 ≠ 15) ∨
  (h1 = 0xF3EF ∧ field h2 12 4 = 0x8 ∧ field h2 8 4 ≠ 13 ∧ field h2 8 4 ≠ 15) ∨
  (h1 = 0xF3BF ∧ (h2 = 0x8F4F ∨ h2 = 0x8F5F ∨ h2 = 0x8F6F)) ∨
  (field h1 4 12 = 0xF7F ∧ field h2 12 4 = 0xA)

theorem admittedWide_of_decode32 {h1 h2 : Nat} {i : Instr} (h : decode32 h1 h2 = .ok i) (hi : i.WellFormed) :
    AdmittedWide h1 h2 := by
  obtain ⟨h11, h14, h12, rfl⟩ | ⟨hop1, hop2, r, -, rfl⟩ | ⟨rfl, hop2, r, -, rfl⟩ | ⟨rfl, rfl, rfl⟩ | ⟨rfl, rfl, rfl⟩ |
    ⟨rfl, rfl, rfl⟩ | ⟨hop1, hop2, rfl⟩ := decode32_eq_ok h
  · exact .inl ⟨h11, h14, h12⟩
  · exact .inr (.inl ⟨hop1, hop2, by simpa [Instr.WellFormed, Instr.wellFormed] using hi⟩)
  · exact .inr (.inr (.inl ⟨rfl, hop2, by simpa [Instr.WellFormed, Instr.wellFormed] using hi⟩))
  · exact .inr (.inr (.inr (.inl ⟨rfl, .inl rfl⟩)))
  · exact .inr (.inr (.inr (.inl ⟨rfl, .inr (.inl rfl)⟩)))
  · exact .inr (.inr (.inr (.inl ⟨rfl, .inr (.inr rfl)⟩)))
  · exact .inr (.inr (.inr (.inr ⟨hop1, hop2⟩)))

/-- Two halfwords that match no row of 32 bits, or one whose constraint fails, are refused (spec 30 R76, R77). -/
theorem refusedWord_of_not_admittedWide {hw1 hw2 : Half} {h1 h2 : Nat} (e1 : hw1.toNat = h1) (e2 : hw2.toNat = h2)
    (hwide : 0xE800 ≤ h1) (h : ¬AdmittedWide h1 h2) : refusedWord hw1 (some hw2) := by
  subst e1 e2
  cases hd : decode hw1 (some hw2) with
  | error e => exact ⟨e, hd⟩
  | ok i =>
    obtain ⟨hrow, hi⟩ := decode_eq_ok hd
    simp only [decodeRow, isWide_iff_le.mpr hwide, if_true] at hrow
    exact absurd (admittedWide_of_decode32 hrow hi) h

/-! ### Undefined encodings of 16 bits (spec 30 R76) -/

theorem toNat_ne_of_ne {n : Nat} {x v : BitVec n} (h : x ≠ v) : x.toNat ≠ v.toNat := fun heq => h (BitVec.eq_of_toNat_eq heq)

/-- The undefined values of bits 11 to 8 in class 1011. -/
theorem refusedWord_misc {op : BitVec 8} (hop : op ∈ [0xB1#8, 0xB3#8, 0xB7#8, 0xB8#8, 0xB9#8, 0xBB#8]) (x : BitVec 8) :
    refusedWord (op ++ x) none := by
  simp only [List.mem_cons, List.not_mem_nil, or_false] at hop
  refine refusedWord_of_decode16 (e := .undefined16) (toNat_append_eq_add op x) ?_ ?_
  · obtain rfl | rfl | rfl | rfl | rfl | rfl := hop <;> simp only [BitVec.toNat_ofNat] <;> omega
  · obtain rfl | rfl | rfl | rfl | rfl | rfl := hop <;> simp (disch := omega) [decode16, decode11]

/-- CPS other than CPSIE and CPSID. -/
theorem refusedWord_cps {x : BitVec 8} (hie : x ≠ 0x62#8) (hid : x ≠ 0x72#8) : refusedWord (0b10110110#8 ++ x) none := by
  have hie' : x.toNat ≠ 0x62 := toNat_ne_of_ne hie
  have hid' : x.toNat ≠ 0x72 := toNat_ne_of_ne hid
  refine refusedWord_of_decode16 (n := 0xB600 + x.toNat) (e := .undefined16) (toNat_append_eq_add _ x) (by omega) ?_
  simp (disch := omega) [decode16, decode11, decodeCps, hie', hid']

/-- Op 10 of the reverse group. -/
theorem refusedWord_reverse (x : BitVec 6) : refusedWord (0b1011101010#10 ++ x) none := by
  refine refusedWord_of_decode16 (n := 0xBA80 + x.toNat) (e := .undefined16) (toNat_append_eq_add _ x) (by omega) ?_
  simp (disch := omega) [decode16, decode11, decodeReverse]

/-- The IT space. -/
theorem refusedWord_it (x : BitVec 4) {y : BitVec 4} (hy : y ≠ 0#4) : refusedWord (0b10111111#8 ++ x ++ y) none := by
  have hy' : y.toNat ≠ 0 := toNat_ne_of_ne hy
  refine refusedWord_of_decode16 (n := 0xBF00 + x.toNat * 2 ^ 4 + y.toNat) (e := .undefined16) ?_ (by omega) ?_
  · simp only [toNat_append_eq_add, BitVec.toNat_ofNat]; omega
  · simp (disch := omega) [decode16, decode11, decodeHint, hy']

/-- BX and BLX with bits 2 to 0 not clear. -/
theorem refusedWord_bx (l : BitVec 1) (m : Reg) {low : BitVec 3} (hlow : low ≠ 0#3) :
    refusedWord (0b01000111#8 ++ l ++ f4 m ++ low) none := by
  have hlow' : low.toNat ≠ 0 := toNat_ne_of_ne hlow
  refine refusedWord_of_decode16 (n := 0x4700 + l.toNat * 2 ^ 7 + m.val * 2 ^ 3 + low.toNat) (e := .undefined16) ?_ (by omega) ?_
  · simp only [toNat_append_eq_add, BitVec.toNat_ofNat]; omega
  · simp (disch := omega) [decode16, decode4, decodeHi, hlow']

/-! ### Undefined encodings of 32 bits (spec 30 R76) -/

/-- First halfwords that begin 11101. -/
theorem refusedWord_11101 (x : BitVec 11) (hw2 : Half) : refusedWord (0b11101#5 ++ x) (some hw2) := by
  have hslice : (0b11101#5 ++ x).extractLsb' 11 5 = 0b11101#5 := BitVec.extractLsb'_append_eq_left
  have hfield : field (0b11101#5 ++ x).toNat 11 5 = 0b11101 := extractLsb'_eq_iff.mp hslice
  refine refusedWord_of_not_admittedWide rfl rfl (isWide_iff_le.mp (isWide_iff_extractLsb'.mpr (.inl hslice))) ?_
  generalize (0b11101#5 ++ x).toNat = h1 at hfield
  unfold AdmittedWide field at *
  omega

/-- Two halfwords under a mask of high bits of each. -/
theorem halves_and_mask {m n k l : Nat} {x : BitVec (m + n)} {y : BitVec (k + l)} {c a : BitVec m} {d b : BitVec k}
    (hx : x.extractLsb' n m &&& c = a) (hy : y.extractLsb' l k &&& d = b) :
    (x ++ y) &&& ((c ++ 0#n) ++ (d ++ 0#l)) = (a ++ 0#n) ++ (b ++ 0#l) := by
  rw [BitVec.and_append, and_append_zero, and_append_zero, hx, hy]

/-- A field as a slice under its mask. -/
theorem extractLsb'_and_allOnes {n lo len : Nat} {x : BitVec n} {v : BitVec len} (h : field x.toNat lo len = v.toNat) :
    x.extractLsb' lo len &&& BitVec.allOnes len = v := by
  rw [BitVec.and_allOnes, extractLsb'_eq_iff, h]

/-- The second halfword of BL under its mask: bits 15, 14 and 12 are set (spec 30 R75). -/
theorem extractLsb'_and_bl {hw2 : Half} (h14 : field hw2.toNat 14 2 = 0b11) (h12 : field hw2.toNat 12 1 = 1) :
    hw2.extractLsb' 12 4 &&& 0b1101#4 = 0b1101#4 := by
  have hpattern : ∀ t : BitVec 4, t.toNat / 4 = 3 → t.toNat % 2 = 1 → t &&& 0b1101#4 = 0b1101#4 := by decide
  have hslice : field hw2.toNat 12 4 = (hw2.extractLsb' 12 4).toNat := extractLsb'_eq_iff.mp rfl
  unfold field at h14 h12 hslice
  exact hpattern _ (by omega) (by omega)

/-- Words under the masks of all seven rows of 32 bits: an admitted one has the pattern of its row. -/
theorem refusedWord_wide {hw1 hw2 : Half} (hw : hw1.extractLsb' 11 5 = 0b11110#5 ∨ hw1.extractLsb' 11 5 = 0b11111#5)
    (bl : (hw1 ++ hw2) &&& 0xF800D000#32 ≠ 0xF000D000#32) (msr : (hw1 ++ hw2) &&& 0xFFF0FF00#32 ≠ 0xF3808800#32)
    (mrs : (hw1 ++ hw2) &&& 0xFFFFF000#32 ≠ 0xF3EF8000#32) (dsb : hw1 ++ hw2 ≠ 0xF3BF8F4F#32)
    (dmb : hw1 ++ hw2 ≠ 0xF3BF8F5F#32) (isb : hw1 ++ hw2 ≠ 0xF3BF8F6F#32)
    (udfW : (hw1 ++ hw2) &&& 0xFFF0F000#32 ≠ 0xF7F0A000#32) : refusedWord hw1 (some hw2) := by
  refine refusedWord_of_not_admittedWide rfl rfl (isWide_iff_le.mp (isWide_iff_extractLsb'.mpr (.inr hw))) ?_
  rintro (⟨h11, h14, h12⟩ | ⟨hop1, hop2, -⟩ | ⟨hop1, hop2, -⟩ | ⟨hop1, hop2⟩ | ⟨hop1, hop2⟩)
  · exact bl (halves_and_mask (m := 5) (n := 11) (k := 4) (l := 12) (a := 0b11110#5)
      (extractLsb'_and_allOnes h11) (extractLsb'_and_bl h14 h12))
  · exact msr (halves_and_mask (m := 12) (n := 4) (k := 8) (l := 8) (a := 0xF38#12) (b := 0x88#8)
      (extractLsb'_and_allOnes hop1) (extractLsb'_and_allOnes hop2))
  · exact mrs (halves_and_mask (m := 16) (n := 0) (k := 4) (l := 12) (a := 0xF3EF#16) (b := 0x8#4)
      (extractLsb'_and_allOnes (by rw [field, hop1]; rfl)) (extractLsb'_and_allOnes hop2))
  · obtain rfl : hw1 = 0xF3BF#16 := BitVec.eq_of_toNat_eq hop1
    obtain h | h | h := hop2
    · exact dsb (congrArg (0xF3BF#16 ++ ·) (BitVec.eq_of_toNat_eq h : hw2 = 0x8F4F#16))
    · exact dmb (congrArg (0xF3BF#16 ++ ·) (BitVec.eq_of_toNat_eq h : hw2 = 0x8F5F#16))
    · exact isb (congrArg (0xF3BF#16 ++ ·) (BitVec.eq_of_toNat_eq h : hw2 = 0x8F6F#16))
  · exact udfW (halves_and_mask (m := 12) (n := 4) (k := 4) (l := 12) (a := 0xF7F#12) (b := 0xA#4)
      (extractLsb'_and_allOnes hop1) (extractLsb'_and_allOnes hop2))

/-- Settles O8: the undefined spaces of 16 bits one by one, and the 32-bit words by the patterns of the rows. -/
theorem undefinedEncodingsRefused : Obligations.UndefinedEncodingsRefused :=
  ⟨fun x => ⟨refusedWord_misc (by decide) x, refusedWord_misc (by decide) x, refusedWord_misc (by decide) x,
      refusedWord_misc (by decide) x, refusedWord_cps, refusedWord_misc (by decide) x, refusedWord_misc (by decide) x⟩,
    refusedWord_reverse, fun x _ => refusedWord_it x, refusedWord_11101, fun _ _ => refusedWord_wide,
    fun l m _ => refusedWord_bx l m⟩

/-! ### Unpredictable encodings (spec 30 R77) -/

/-- The T_HIREG word as a number (spec 30 R68). -/
theorem hiWord_toNat (op : BitVec 2) (d m : Reg) :
    (hiWord op d m).toNat = 0x4400 + op.toNat * 2 ^ 8 + d.val / 8 * 2 ^ 7 + m.val * 2 ^ 3 + d.val % 8 := by
  have hd := d.isLt
  simp only [hiWord, toNat_append_eq_add, BitVec.extractLsb'_toNat, BitVec.toNat_ofNat, Nat.shiftRight_eq_div_pow]
  omega

theorem cmpHi_wellFormed_eq_false {n m : Reg} (h : (n.val < 8 ∧ m.val < 8) ∨ n = 15 ∨ m = 15) :
    (Instr.cmpHi n m).wellFormed = false := by
  obtain ⟨hn, hm⟩ | rfl | rfl := h
  · simp [Instr.wellFormed, hn, hm]
  · simp [Instr.wellFormed]
  · simp [Instr.wellFormed]

theorem refusedWord_stm {rn : LowReg} {list : BitVec 8} (h : (Instr.stm rn list).wellFormed = false) :
    refusedWord (0b11000#5 ++ f3 rn ++ list) none := by
  refine refusedWord_of_encode (i := .stm rn list) (enc16_eq ?_) h
  simp only [toNat_append_eq_add, BitVec.toNat_ofNat]; omega

theorem refusedWord_ldm (rn : LowReg) : refusedWord (0b11001#5 ++ f3 rn ++ 0#8) none := by
  refine refusedWord_of_encode (i := .ldm rn 0#8) (enc16_eq ?_) rfl
  simp only [toNat_append_eq_add, BitVec.toNat_ofNat]; omega

/-- A register with another one of the list below it is not the lowest of the list. -/
theorem isLowest_eq_false {n j : LowReg} {list : BitVec 8} (hj : list.getLsbD j.val = true) (hlt : j < n) :
    isLowest n list = false := by
  have hbit : (list.toNat % 2 ^ n.val).testBit j.val = true := by
    rw [Nat.testBit_mod_two_pow, decide_eq_true (by exact hlt)]; exact hj
  have hne : list.toNat % 2 ^ n.val ≠ 0 := fun h => by simp [h] at hbit
  simp [isLowest, hne]

/-- MRS to register 13 or 15. -/
theorem refusedWord_mrs {rd : Reg} (hrd : rd = 13 ∨ rd = 15) (sysm : BitVec 8) :
    refusedWord 0xF3EF#16 (some (0b1000#4 ++ f4 rd ++ sysm)) := by
  refine refusedWord_of_not_admittedWide (h1 := 0xF3EF) (h2 := 0x8000 + rd.val * 2 ^ 8 + sysm.toNat) rfl ?_ (by decide) ?_
  · simp only [toNat_append_eq_add, BitVec.toNat_ofNat]; omega
  · obtain rfl | rfl := hrd <;> simp (disch := omega) [AdmittedWide]

/-- The first halfword of MSR as a number. -/
theorem msrWord_toNat (rn : Reg) : (0b111100111000#12 ++ f4 rn).toNat = 0xF380 + rn.val := by
  simp only [toNat_append_eq_add, BitVec.toNat_ofNat]; omega

/-- MSR from register 13 or 15. -/
theorem refusedWord_msr {rn : Reg} (hrn : rn = 13 ∨ rn = 15) (sysm : BitVec 8) :
    refusedWord (0b111100111000#12 ++ f4 rn) (some (0b10001000#8 ++ sysm)) := by
  refine refusedWord_of_not_admittedWide (msrWord_toNat rn) (toNat_append_eq_add _ sysm) (by omega) ?_
  obtain rfl | rfl := hrn <;> simp (disch := omega) [AdmittedWide]

/-- An MSR word with another second halfword than `10001000:SYSm`; bits 15 and 14 keep it apart from BL. -/
theorem refusedWord_msr_sbz (rn : Reg) {hw2 : Half} (h14 : hw2.extractLsb' 14 2 = 0b10#2)
    (h8 : hw2.extractLsb' 8 8 ≠ 0b10001000#8) : refusedWord (0b111100111000#12 ++ f4 rn) (some hw2) := by
  rw [extractLsb'_eq_iff] at h14
  rw [ne_eq, extractLsb'_eq_iff] at h8
  refine refusedWord_of_not_admittedWide (msrWord_toNat rn) rfl (by omega) ?_
  generalize hw2.toNat = h2 at *
  simp only [AdmittedWide, field, BitVec.toNat_ofNat] at *
  omega

/-- A barrier with an option other than 1111. -/
theorem refusedWord_barrier (op : BitVec 3) {option : BitVec 4} (hoption : option ≠ 0b1111#4) :
    refusedWord 0xF3BF#16 (some (0b100011110#9 ++ op ++ option)) := by
  have hne : option.toNat ≠ 15 := toNat_ne_of_ne hoption
  refine refusedWord_of_not_admittedWide (h1 := 0xF3BF) (h2 := 0x8F00 + op.toNat * 2 ^ 4 + option.toNat) rfl ?_ (by decide) ?_
  · simp only [toNat_append_eq_add, BitVec.toNat_ofNat]; omega
  · simp (disch := omega) [AdmittedWide]; omega

/-- An MRS word whose first halfword does not end in 1111. -/
theorem refusedWord_mrs_sbo {low : BitVec 4} (x : BitVec 12) (hlow : low ≠ 0b1111#4) :
    refusedWord (0b111100111110#12 ++ low) (some (0b1000#4 ++ x)) := by
  have hne : low.toNat ≠ 15 := toNat_ne_of_ne hlow
  refine refusedWord_of_not_admittedWide (h1 := 0xF3E0 + low.toNat) (h2 := 0x8000 + x.toNat) (toNat_append_eq_add _ low)
    (toNat_append_eq_add _ x) (by omega) ?_
  simp only [AdmittedWide, field]; omega

/-- An MRS word with bit 13 of the second halfword set. -/
theorem refusedWord_mrs_sbz (x : BitVec 12) : refusedWord 0xF3EF#16 (some (0b1010#4 ++ x)) := by
  refine refusedWord_of_not_admittedWide (h1 := 0xF3EF) (h2 := 0xA000 + x.toNat) rfl (toNat_append_eq_add _ x) (by decide) ?_
  simp (disch := omega) [AdmittedWide]

/-- Settles O9: the 16-bit words are those of instructions that break their row's constraint, the 32-bit words are not admitted. -/
theorem unpredictableEncodingsRefused : Obligations.UnpredictableEncodingsRefused := by
  refine ⟨refusedWord_of_encode (i := .addHi 15 15) rfl rfl, fun n m h => ?_, refusedWord_of_encode (i := .blx 15) rfl rfl,
    fun l n => ?_, fun n j list hn hj hlt => ?_, refusedWord_of_encode (i := .push false 0#8) rfl rfl,
    refusedWord_of_encode (i := .pop false 0#8) rfl rfl,
    fun sysm => ⟨refusedWord_mrs (.inl rfl) sysm, refusedWord_mrs (.inr rfl) sysm, refusedWord_msr (.inl rfl) sysm,
      refusedWord_msr (.inr rfl) sysm⟩,
    fun op _ _ => refusedWord_barrier op, fun n _ h14 _ => refusedWord_msr_sbz n h14, fun _ x => refusedWord_mrs_sbo x,
    refusedWord_mrs_sbz⟩
  · exact refusedWord_of_encode (i := .cmpHi n m) (enc16_eq (hiWord_toNat _ n m)) (cmpHi_wellFormed_eq_false h)
  · obtain rfl | rfl : l = 0#1 ∨ l = 1#1 := by revert l; decide
    · exact refusedWord_stm rfl
    · exact refusedWord_ldm n
  · exact refusedWord_stm (by simp [Instr.wellFormed, hn, isLowest_eq_false hj hlt])

end Sys2Proof
end

section
/-! PROOFS. The flag logic of spec 40: AddWithCarry (R98), the shifts with their carries (R99 to R102), the conditions (R105). -/

namespace Sys2Proof.Machine

/-! ### AddWithCarry (spec 40 R98) -/

theorem toNat_addWithCarry_result (x y : Word) (c : Bool) :
    (addWithCarry x y c).result.toNat = (x.toNat + y.toNat + c.toNat) % 2 ^ 32 := BitVec.toNat_ofNat ..

theorem addWithCarry_carry_iff {x y : Word} {c : Bool} :
    (addWithCarry x y c).carry = true ↔ 2 ^ 32 ≤ x.toNat + y.toNat + c.toNat := decide_eq_true_iff

/-- Overflow as the pseudocode has it: the operands share a sign that the result does not have. -/
theorem addWithCarry_overflow_iff {x y : Word} {c : Bool} : (addWithCarry x y c).overflow = true ↔
    x.msb = y.msb ∧ (addWithCarry x y c).result.msb ≠ x.msb := by
  rw [addWithCarry, Bool.and_eq_true, beq_iff_eq, bne_iff_ne]

/-- Operands of different signs have a signed sum that fits; for operands of one sign the sum is off by 2^32 exactly when its sign is. -/
theorem addWithCarry_overflow_iff_toInt {x y : Word} {c : Bool} : (addWithCarry x y c).overflow = true ↔
    (addWithCarry x y c).result.toInt ≠ x.toInt + y.toInt + (c.toNat : Int) := by
  have hresult := toNat_addWithCarry_result x y c
  have hc := c.toNat_le
  rw [addWithCarry_overflow_iff]
  simp only [BitVec.msb_eq_decide, BitVec.toInt_eq_toNat_cond, ne_eq, decide_eq_decide]
  omega

/-- Adding the complement with carry 1 subtracts. -/
theorem addWithCarry_not_result (x y : Word) : (addWithCarry x (~~~y) true).result = x - y := by
  have hresult := toNat_addWithCarry_result x (~~~y) true
  rw [BitVec.toNat_not, Bool.toNat_true] at hresult
  bv_omega

/-- A subtraction carries when it does not borrow. -/
theorem addWithCarry_not_carry_iff {x y : Word} : (addWithCarry x (~~~y) true).carry = true ↔ y.toNat ≤ x.toNat := by
  rw [addWithCarry_carry_iff, BitVec.toNat_not, Bool.toNat_true]
  omega

theorem toInt_not_eq_neg_sub_one (y : Word) : (~~~y).toInt = -y.toInt - 1 := by
  simp only [BitVec.toInt_eq_toNat_cond, BitVec.toNat_not]
  omega

/-- A subtraction overflows when the signed difference does not fit. -/
theorem addWithCarry_not_overflow_iff {x y : Word} :
    (addWithCarry x (~~~y) true).overflow = true ↔ (x - y).toInt ≠ x.toInt - y.toInt := by
  rw [addWithCarry_overflow_iff_toInt, addWithCarry_not_result, toInt_not_eq_neg_sub_one, Bool.toNat_true]
  omega

/-- Settles O13: carry and overflow as comparisons of unbounded sums. -/
theorem addWithCarryLaw : Obligations.AddWithCarryLaw := by
  intro x y c
  refine ⟨toNat_addWithCarry_result x y c, addWithCarry_carry_iff, ?_, addWithCarry_overflow_iff_toInt,
    addWithCarry_not_result x y, addWithCarry_not_carry_iff⟩
  simpa only [BitVec.msb_eq_getLsbD_last] using addWithCarry_overflow_iff

/-! ### Shift_C (spec 40 R99 to R102) -/

section
variable (x : Word) (n : Nat)

theorem getLsbD_lslC {k : Nat} (hk : k < 32) : (lslC x n).1.getLsbD k = shiftedBit .lsl x n k := by
  rw [lslC]
  split
  · simp only [shiftedBit, BitVec.getLsbD_shiftLeft, hk, decide_true, Bool.true_and, ← decide_not, Nat.not_lt]
  · simp [shiftedBit, show ¬n ≤ k by omega]

theorem lslC_carry (hn : n ≠ 0) (c : Bool) : (lslC x n).2 = shiftedCarry .lsl x n c := by
  rw [lslC]
  split <;> simp [shiftedCarry, *]

theorem getLsbD_lsrC (k : Nat) : (lsrC x n).1.getLsbD k = shiftedBit .lsr x n k := by
  rw [lsrC]
  split
  · simp [shiftedBit, Nat.add_comm]
  · simp [shiftedBit, BitVec.getLsbD_of_ge x (k + n) (by omega)]

theorem lsrC_carry (hn : n ≠ 0) (c : Bool) : (lsrC x n).2 = shiftedCarry .lsr x n c := by
  rw [lsrC]
  split
  · simp [shiftedCarry, hn]
  · simp [shiftedCarry, hn, BitVec.getLsbD_of_ge x (n - 1) (by omega)]

theorem getLsbD_asrC {k : Nat} (hk : k < 32) : (asrC x n).1.getLsbD k = shiftedBit .asr x n k := by
  rw [asrC]
  split
  case isTrue hn =>
    rw [BitVec.getLsbD_sshiftRight, decide_eq_false (Nat.not_le.mpr hk), Bool.not_false, Bool.true_and, shiftedBit]
    split
    · rw [Nat.add_comm, Nat.min_eq_left (by omega)]
    · rw [Nat.min_eq_right (by omega), BitVec.msb_eq_getLsbD_last]
  case isFalse hn =>
    rw [shiftedBit, Nat.min_eq_right (by omega), ← BitVec.msb_eq_getLsbD_last (w := 32)]
    cases x.msb
    · exact BitVec.getLsbD_zero
    · exact BitVec.getLsbD_allOnes.trans (decide_eq_true hk)

theorem asrC_carry (hn : n ≠ 0) (c : Bool) : (asrC x n).2 = shiftedCarry .asr x n c := by
  rw [asrC]
  split
  · simp [shiftedCarry, hn, show min (n - 1) 31 = n - 1 by omega]
  · simp [shiftedCarry, hn, show min (n - 1) 31 = 31 by omega, BitVec.msb_eq_getLsbD_last]

/-- The low part of a rotation comes from above, the high part from the bits that were shifted out. -/
theorem getLsbD_rorC {k : Nat} (hk : k < 32) : (rorC x n).1.getLsbD k = shiftedBit .ror x n k := by
  rw [rorC, shiftedBit]
  dsimp only
  split
  case isTrue hm => rw [show (k + n) % 32 = k by omega]
  case isFalse hm =>
    rw [BitVec.getLsbD_or, BitVec.getLsbD_ushiftRight, BitVec.getLsbD_shiftLeft, decide_eq_true hk, Bool.true_and]
    by_cases hlow : n % 32 + k < 32
    · rw [decide_eq_true (by omega : k < 32 - n % 32), Bool.not_true, Bool.false_and, Bool.or_false,
        show n % 32 + k = (k + n) % 32 by omega]
    · rw [BitVec.getLsbD_of_ge x _ (by omega), Bool.false_or, decide_eq_false (by omega : ¬k < 32 - n % 32), Bool.not_false,
        Bool.true_and, show k - (32 - n % 32) = (k + n) % 32 by omega]

theorem rorC_carry (hn : n ≠ 0) (c : Bool) : (rorC x n).2 = shiftedCarry .ror x n c := by
  have htop : (rorC x n).2 = (rorC x n).1.getLsbD 31 := BitVec.msb_eq_getLsbD_last (rorC x n).1
  rw [htop, getLsbD_rorC x n (by decide), shiftedCarry, if_neg hn, shiftedBit]

/-- Amount 0 moves no bit. -/
theorem shiftedBit_zero (kind : ShiftKind) {k : Nat} (hk : k < 32) : shiftedBit kind x 0 k = x.getLsbD k := by
  cases kind
  case lsl => simp [shiftedBit]
  case lsr => simp [shiftedBit]
  case asr => simp [shiftedBit, show min k 31 = k by omega]
  case ror => simp [shiftedBit, Nat.mod_eq_of_lt hk]

end

/-- Settles O14: amount 0 keeps value and carry, and each kind moves its bits as its own lemma says. -/
theorem shiftLaw : Obligations.ShiftLaw := by
  intro x kind n c
  by_cases hn : n = 0
  · subst hn
    exact ⟨fun k hk => (shiftedBit_zero x kind hk).symm, rfl⟩
  · rw [shiftC, if_neg hn]
    cases kind
    case lsl => exact ⟨fun k => getLsbD_lslC x n, lslC_carry x n hn c⟩
    case lsr => exact ⟨fun k _ => getLsbD_lsrC x n k, lsrC_carry x n hn c⟩
    case asr => exact ⟨fun k => getLsbD_asrC x n, asrC_carry x n hn c⟩
    case ror => exact ⟨fun k => getLsbD_rorC x n, rorC_carry x n hn c⟩

/-! ### Conditions (spec 40 R105) -/

section
variable {x y : Word}

/-- Z after a comparison. -/
theorem compare_z_iff : (Flags.ofAdd (addWithCarry x (~~~y) true)).z = true ↔ x = y := by
  rw [Flags.ofAdd, addWithCarry_not_result, beq_iff_eq]
  bv_omega

/-- C after a comparison. -/
theorem compare_c_iff : (Flags.ofAdd (addWithCarry x (~~~y) true)).c = true ↔ y.toNat ≤ x.toNat := addWithCarry_not_carry_iff

/-- N equals V after a comparison when the signed difference is not below 0: its sign is wrong exactly on overflow. -/
theorem compare_n_eq_v_iff : (Flags.ofAdd (addWithCarry x (~~~y) true)).n = (Flags.ofAdd (addWithCarry x (~~~y) true)).v ↔
    y.toInt ≤ x.toInt := by
  have hn : (Flags.ofAdd (addWithCarry x (~~~y) true)).n = true ↔ (x - y).toInt < 0 := by
    rw [Flags.ofAdd, addWithCarry_not_result, BitVec.msb_eq_toInt, decide_eq_true_iff]
  have hv : (Flags.ofAdd (addWithCarry x (~~~y) true)).v = true ↔ (x - y).toInt ≠ x.toInt - y.toInt :=
    addWithCarry_not_overflow_iff
  have hsub := BitVec.toNat_sub x y
  rw [Bool.eq_iff_iff, hn, hv]
  simp only [BitVec.toInt_eq_toNat_cond]
  omega

end

/-- Settles O15: the table by cases of the condition; of two compared values Z says equality, C the unsigned order and N against V the
signed one, and the other conditions are combinations of these. -/
theorem conditionLaw : Obligations.ConditionLaw := by
  refine ⟨fun f => ?_, fun x y => ?_⟩
  · and_intros <;> simp [conditionPassed]
  · have hz := compare_z_iff (x := x) (y := y)
    have hc := compare_c_iff (x := x) (y := y)
    have hnv := compare_n_eq_v_iff (x := x) (y := y)
    have hint : x.toInt = y.toInt ↔ x.toNat = y.toNat := BitVec.toInt_inj.trans BitVec.toNat_inj.symm
    generalize Flags.ofAdd (addWithCarry x (~~~y) true) = f at *
    simp only [conditionPassed, Bool.and_eq_true, Bool.or_eq_true, Bool.not_eq_true', Bool.eq_false_iff, beq_iff_eq, bne_iff_ne,
      ne_eq, hz, hc, hnv, ← BitVec.toNat_inj]
    exact ⟨trivial, trivial, by omega, by omega, trivial, by omega, by omega, by omega⟩

end Sys2Proof.Machine
end

section
/-! PROOFS. The instructions that set N and Z only (spec 40 R104), and the branches through a register (spec 45 R162, R163). -/

namespace Sys2Proof.Machine

/-! ### Frames of the shared operations -/

section
variable {s u : State}

theorem registerFrame_refl : registerFrame s s [] :=
  ⟨fun _ _ _ => rfl, ⟨rfl, rfl, rfl⟩, ⟨rfl, rfl⟩, fun _ => rfl, rfl, rfl, rfl, rfl, rfl, rfl⟩

/-- A write of a register has the frame of that register. -/
theorem registerFrame_setX (r : Reg) (v : Word) : registerFrame s (s.setX r v) [r] := by
  refine ⟨fun q _ hq => State.x_setX_of_ne s r q v (List.ne_of_not_mem_cons hq), ?_, ?_, fun _ => rfl, rfl, rfl, rfl, rfl, rfl,
    rfl⟩
  · simp [keepsControl]
  · simp [keepsPc]

/-- A branch from a state that has written some registers (spec 40 R106). -/
theorem branchFrame_branchTo {dest : List Reg} (h : registerFrame s u dest) (hf : keepsFlags s u) (target : Word) :
    branchFrame s (branchTo target u) dest target := by
  obtain ⟨hregs, hcontrol, -, hbytes, hexit, hloop⟩ := h
  refine ⟨rfl, rfl, fun r h15 hr => ?_, hf, hcontrol, hbytes, hexit, hloop⟩
  rw [branchTo_x _ _ _ (val_lt_of_ne_pc h15), hregs r h15 hr]

/-! ### N and Z (spec 40 R97, R104) -/

theorem nzFlags_setNZ (f : Flags) (v : Word) : nzFlags (f.setNZ v) v := by
  constructor
  · rw [Flags.setNZ, BitVec.msb_eq_toInt, decide_eq_true_iff]
  · rw [Flags.setNZ, beq_iff_eq]
    exact BitVec.toNat_inj.symm

/-- A result written with N and Z at a cost of 1. -/
theorem logicResult_writeLogical (rd : LowReg) (v : Word) {c : CycleClass} (hc : c.cycles = 1) :
    ∃ t, writeLogical (lo rd) v c s = .next t ∧ logicResult s (lo rd) v t :=
  ⟨_, rfl, State.x_setX_same s _ v (lo_lt rd), nzFlags_setNZ _ v, ⟨rfl, rfl⟩, hc, registerFrame_setX (lo rd) v⟩

end

/-! ### The words (spec 30 R67, R74, R76) -/

/-- A word of ten fixed bits and two low registers, by what its instruction encodes to. -/
theorem encodes16_of_encode_eq {i : Instr} (op : BitVec 10) (a b : LowReg)
    (h : encode i = enc16 (op.toNat * 2 ^ 6 + b.val * 2 ^ 3 + a.val)) (hi : i.WellFormed) : encodes16 (op ++ f3 b ++ f3 a) i := by
  refine decode_eq_ok_of_encode_eq (h.trans (enc16_eq ?_)) hi
  simp only [toNat_append_eq_add, BitVec.toNat_ofNat]; omega

theorem encodes16_movsImm (rd : LowReg) (imm8 : BitVec 8) : encodes16 (0b00100#5 ++ f3 rd ++ imm8) (.movsImm rd imm8) := by
  refine decode_eq_ok_of_encode_eq (enc16_eq ?_) rfl
  simp only [toNat_append_eq_add, BitVec.toNat_ofNat]; omega

/-- The word of BX and BLX as a number. -/
theorem bxWord_toNat (op : BitVec 9) (m : Reg) : (op ++ f4 m ++ 0#3).toNat = op.toNat * 2 ^ 7 + m.val * 2 ^ 3 := by
  simp only [toNat_append_eq_add, BitVec.toNat_ofNat]; omega

/-- Settles O21: MOVS, the logical operations and MULS share their tail `writeLogical`; TST has its own, without the register. -/
theorem logicalSetsNZOnly : Obligations.LogicalSetsNZOnly := by
  intro s rd rm imm8
  refine ⟨⟨encodes16_movsImm rd imm8, ?movs⟩,
    ⟨encodes16_of_encode_eq _ rd rm rfl rfl, logicResult_writeLogical rd _ rfl⟩,
    ⟨encodes16_of_encode_eq _ rd rm rfl rfl, logicResult_writeLogical rd _ rfl⟩,
    ⟨encodes16_of_encode_eq _ rd rm rfl rfl, logicResult_writeLogical rd _ rfl⟩,
    ⟨encodes16_of_encode_eq _ rd rm rfl rfl, logicResult_writeLogical rd _ rfl⟩,
    ⟨encodes16_of_encode_eq _ rd rm rfl rfl, logicResult_writeLogical rd _ rfl⟩,
    ⟨encodes16_of_encode_eq _ rd rm rfl rfl, ?muls⟩,
    ⟨encodes16_of_encode_eq _ rd rm rfl rfl, _, rfl, nzFlags_setNZ _ _, ⟨rfl, rfl⟩, rfl, registerFrame_refl⟩⟩
  case movs =>
    rw [← zext_eq_ofNat]
    exact logicResult_writeLogical rd _ rfl
  case muls =>
    rw [BitVec.ofNat_mul, BitVec.ofNat_toNat, BitVec.ofNat_toNat, BitVec.setWidth_eq, BitVec.setWidth_eq]
    exact logicResult_writeLogical rd _ rfl

/-! ### BX and BLX (spec 40 R107, 45 R162, R163) -/

section
variable {target : Word} (s : State)

theorem isExcReturn_iff : isExcReturn target = true ↔ target.extractLsb' 28 4 = 0xF#4 := beq_iff_eq

/-- The three cases of BXWritePC: the sentinel, a target with bit 0 set, a target with bit 0 clear. -/
theorem bxWritePC_of_excReturn (h : target.extractLsb' 28 4 = 0xF#4) : bxWritePC target s = exceptionReturn s :=
  if_pos (isExcReturn_iff.mpr h)

theorem bxWritePC_of_thumb (h : target.extractLsb' 28 4 ≠ 0xF#4) (hbit : target.getLsbD 0 = true) :
    bxWritePC target s = .next (branchTo target s) := by
  rw [bxWritePC, if_neg (mt isExcReturn_iff.mp h), if_pos hbit]

theorem bxWritePC_of_notThumb (h : target.extractLsb' 28 4 ≠ 0xF#4) (hbit : target.getLsbD 0 = false) :
    bxWritePC target s = .fault (.unsupportedInterworking s.addr target) := by
  rw [bxWritePC, if_neg (mt isExcReturn_iff.mp h), if_neg (Bool.eq_false_iff.mp hbit)]

end

/-- Settles O32: BX by the three cases of BXWritePC, BLX by bit 0 of its target. -/
theorem indirectBranches : Obligations.IndirectBranches := by
  intro s m
  refine ⟨⟨decode_eq_ok_of_encode_eq (enc16_eq (bxWord_toNat _ m)) rfl, fun htop hbit => ?bx, bxWritePC_of_notThumb (s.cost .bx),
      bxWritePC_of_excReturn (s.cost .bx)⟩,
    fun hm => decode_eq_ok_of_encode_eq (i := .blx m) (enc16_eq (bxWord_toNat _ m)) ?blxWord, fun hm => ?blxPc,
    fun hbit => ?blx, fun hbit => ?blxFault⟩
  case bx =>
    exact ⟨_, bxWritePC_of_thumb (s.cost .bx) htop hbit, branchFrame_branchTo (u := s.cost .bx) registerFrame_refl rfl _, rfl⟩
  case blxWord => simpa [Instr.WellFormed, Instr.wellFormed, Fin.ext_iff] using hm
  case blxPc =>
    exact refusedWord_of_encode (i := .blx m) (enc16_eq (bxWord_toNat _ m)) (by rw [hm]; rfl)
  case blx =>
    refine ⟨_, if_pos hbit, State.x_setX_same s lr _ lr_lt, branchFrame_branchTo (registerFrame_setX lr _) ?_ _, rfl⟩
    exact State.setX_cpu_flags ..
  case blxFault => exact if_neg (Bool.eq_false_iff.mp hbit)

end Sys2Proof.Machine
end

section
/-! PROOFS. One CPU step: its faults before execution, the instruction it runs, the advance (spec 40 R83 to R88), and the tick around it
(spec 49 R215). -/

namespace Sys2Proof.Machine

/-! ### Fetch (spec 40 R85) -/

section
variable {s : State} {hw1 : Half}

theorem fetch_of_first_error {f : Fault} (h : fetchHalf s s.addr = .error f) : fetch s = .error f := by
  rw [fetch, h]

theorem fetch_of_narrow (h : fetchHalf s s.addr = .ok hw1) (hw : isWide hw1 = false) : fetch s = .ok (hw1, none) := by
  simp [fetch, h, hw]

theorem fetch_of_second_error {f : Fault} (h : fetchHalf s s.addr = .ok hw1) (hw : isWide hw1 = true)
    (h2 : fetchHalf s (s.addr + 2#32) = .error f) : fetch s = .error f := by
  simp [fetch, h, hw, h2]

theorem fetch_of_wide {hw2 : Half} (h : fetchHalf s s.addr = .ok hw1) (hw : isWide hw1 = true)
    (h2 : fetchHalf s (s.addr + 2#32) = .ok hw2) : fetch s = .ok (hw1, some hw2) := by
  simp [fetch, h, hw, h2]

end

/-! ### The CPU step by what its fetch answers (spec 40 R83, R84, R95) -/

section
variable {s : State} (hs : s.cpu.pcReg.getLsbD 0 = true)
include hs

/-- With the Thumb bit set the step goes on with the fetch, which does not read `branch_taken`. -/
theorem cpuStep_of_thumb : cpuStep s = orFault (fetch s) fun w =>
    match decode w.1 w.2 with
    | .ok i => runInstr i (s.setBranchTaken false)
    | .error _ => .fault (.malformedInstruction s.addr w.1 w.2) :=
  if_neg (show ¬(!s.cpu.pcReg.getLsbD 0) = true by rw [hs]; decide)

theorem cpuStep_of_fetch_error {f : Fault} (h : fetch s = .error f) : cpuStep s = .fault f := by
  rw [cpuStep_of_thumb hs, h, orFault_error]

theorem cpuStep_of_refusedWord {hw1 : Half} {hw2 : Option Half} (h : fetch s = .ok (hw1, hw2)) (hd : refusedWord hw1 hw2) :
    cpuStep s = .fault (.malformedInstruction s.addr hw1 hw2) := by
  obtain ⟨e, he⟩ := hd
  rw [cpuStep_of_thumb hs, h, orFault_ok, he]

theorem cpuStep_of_decode {hw1 : Half} {hw2 : Option Half} {i : Instr} (h : fetch s = .ok (hw1, hw2))
    (hd : decode hw1 hw2 = .ok i) : cpuStep s = runInstr i (s.setBranchTaken false) := by
  rw [cpuStep_of_thumb hs, h, orFault_ok, hd]

end

/-- Settles O41: the mode check, the first fetch, the second fetch, the decoder. -/
theorem faultsBeforeExecute : Obligations.FaultsBeforeExecute := fun _ =>
  ⟨cpuStep_of_notThumb, fun hs =>
    ⟨fun _ hf => cpuStep_of_fetch_error hs (fetch_of_first_error hf),
      fun _ h1 hw =>
        ⟨fun _ hf => cpuStep_of_fetch_error hs (fetch_of_second_error h1 hw hf),
          fun _ h2 hd => cpuStep_of_refusedWord hs (fetch_of_wide h1 hw h2) hd⟩,
      fun _ h1 hw hd => cpuStep_of_refusedWord hs (fetch_of_narrow h1 hw) hd⟩⟩

/-! ### The instruction it runs (spec 40 R86, 49 R215) -/

section
variable {s : State} {i : Instr}

theorem runInstr_of_next {t : State} (h : exec i s = .next t) : runInstr i s = .next (advance i t) := by
  rw [runInstr, h, andThen_next]

theorem runInstr_of_fault {f : Fault} (h : exec i s = .fault f) : runInstr i s = .fault f := by
  rw [runInstr, h, andThen_fault]

/-- A step of a run that is not over, in a tick that is active after its transition. -/
theorem step_of_active {r : State} {c : Nat} (he : s.exitFlag = false) (ht : transition s = .ok (r, c))
    (hr : r.loop.power = .active) :
    step s = andThen (cpuStep r) fun t => .next (closeTick (retire c t).2 (retire c t).1) := by
  rw [step, loopStep, if_neg (Bool.eq_false_iff.mp he), tick, ht, orFault_ok]
  simp only [hr]

end

/-- Settles O42: the CPU step is `runInstr` of the decoded instruction, and an active tick is the CPU step with the bookkeeping after it. -/
theorem stepRunsDecodedInstruction : Obligations.StepRunsDecodedInstruction := by
  refine ⟨fun s hw1 hw2 i hs hf hd => ?_, fun _ r c he ht hr => ?_⟩
  · rw [cpuStep_of_decode hs hf hd]
    exact ⟨fun t => runInstr_of_next, fun f => runInstr_of_fault⟩
  · rw [step_of_active he ht hr]
    exact ⟨fun t h => by rw [h, andThen_next], fun f h => by rw [h, andThen_fault]⟩

/-! ### The advance (spec 40 R88) -/

/-- The tag EXIT is that of BKPT: the exit sentinel is looked for first, and every BKPT word is one (spec 30 R80, 40 R90). -/
theorem isExit_iff {i : Instr} : i.isExit = true ↔ ∃ k, i = .bkpt k := by
  constructor
  · intro h
    obtain ⟨hw, hexit⟩ : isWide (encode i).1 = false ∧ isExitWord (encode i).1 = true := by simpa [Instr.isExit] using h
    have hrow := decodeRow_encode i
    simp only [decodeRow, hw, hexit, Bool.false_eq_true, if_false, if_true] at hrow
    exact ⟨_, (Except.ok.inj hrow).symm⟩
  · rintro ⟨k, rfl⟩
    have hw : isWide (encode (.bkpt k)).1 = false := (Laws.EncodedWidth.bkpt k).symm
    have hexit : isExitWord (encode (.bkpt k)).1 = true := by
      rw [isExitWord_iff]
      simp (disch := omega) [encode, enc16, field]
      omega
    rw [Instr.isExit, hw, hexit]
    rfl

section
variable {i : Instr} {u : State}

theorem advance_of_exit (h : ∃ k, i = .bkpt k) : advance i u = u := if_pos (isExit_iff.mpr h)

theorem advance_of_branch (h : ∀ k, i ≠ .bkpt k) (hb : u.branchTaken = true) : advance i u = u.setPcReg (u.cpu.pcReg + 4#32) := by
  rw [advance, if_neg (mt isExit_iff.mp (not_exists.mpr h)), if_pos hb]

theorem advance_of_plain (h : ∀ k, i ≠ .bkpt k) (hb : u.branchTaken = false) :
    advance i u = u.setPcReg (u.cpu.pcReg + BitVec.ofNat 32 i.len) := by
  rw [advance, if_neg (mt isExit_iff.mp (not_exists.mpr h)), if_neg (Bool.eq_false_iff.mp hb)]

end

/-- The width of a decoded instruction is that of the fetched halfwords. -/
theorem ofNat_len_of_decode {s : State} {hw1 : Half} {hw2 : Option Half} {i : Instr} (hf : fetch s = .ok (hw1, hw2))
    (hd : decode hw1 hw2 = .ok i) : BitVec.ofNat 32 i.len = if hw2.isSome then 4#32 else 2#32 := by
  have hlen : hw2.isSome = isWide hw1 := by
    obtain ⟨-, ⟨hw, rfl⟩ | ⟨v, hw, rfl, -⟩⟩ := fetch_eq_ok hf <;> simp [hw]
  obtain ⟨henc, -⟩ := encodeOfDecode hw1 hw2 i hlen hd
  rw [Instr.len, henc, hlen]
  cases isWide hw1 <;> rfl

/-- The `pc_reg` that a branch to T leaves is T without bit 0, plus 1 (spec 40 R106). -/
theorem branchPc_eq_add_one (target : Word) :
    (target &&& 0xFFFFFFFE#32) ||| 1#32 = (target &&& 0xFFFFFFFE#32) + 1#32 := by
  refine (BitVec.add_eq_or_of_and_eq_zero _ _ ?_).symm
  rw [BitVec.and_assoc]
  exact BitVec.and_zero

/-- The address that a branch to T leaves is T without bit 0. -/
theorem clearBit0_branchPc (target : Word) :
    ((target &&& 0xFFFFFFFE#32) ||| 1#32) &&& 0xFFFFFFFE#32 = target &&& 0xFFFFFFFE#32 := by
  rw [BitVec.and_or_distrib_right, BitVec.and_assoc]
  exact BitVec.or_zero

/-- Settles O43: the three cases of the advance; a taken branch is no BKPT, and 4 more than the `pc_reg` it leaves is T + 5. -/
theorem advanceByWidthOrBranch : Obligations.AdvanceByWidthOrBranch := by
  intro s u hw1 hw2 i hs hf hd hu
  refine ⟨advance i u, ?step, advance_of_exit, advance_of_branch, fun hi hb => ?width, fun target hpc hb => ?branch⟩
  case step => rw [cpuStep_of_decode hs hf hd, runInstr_of_next hu]
  case width => rw [advance_of_plain hi hb, ofNat_len_of_decode hf hd]
  case branch =>
    have hi : ∀ k, i ≠ .bkpt k := by
      rintro k rfl
      cases hu
      cases hb
    rw [advance_of_branch hi hb, hpc]
    constructor
    · rw [State.setPcReg_cpu_pcReg, branchPc_eq_add_one, BitVec.add_assoc]
      rfl
    · exact (instrAddr_add_four _).trans (clearBit0_branchPc target)

end Sys2Proof.Machine
end

section
/-! PROOFS. Shifts by a constant, additions, subtractions and comparisons (spec 41, 42): their words, and what the tails `writeShift`,
`writeAdd` and `compareAdd` leave. -/

namespace Sys2Proof.Machine

/-! ### The words as numbers (spec 30 R67) -/

section
variable (a b c : LowReg)

theorem shiftImmWord_toNat (op imm5 : BitVec 5) :
    (op ++ imm5 ++ f3 b ++ f3 a).toNat = op.toNat * 2 ^ 11 + imm5.toNat * 2 ^ 6 + b.val * 2 ^ 3 + a.val := by
  simp only [toNat_append_eq_add, BitVec.toNat_ofNat]; omega

theorem imm3Word_toNat (op : BitVec 7) (imm3 : BitVec 3) :
    (op ++ imm3 ++ f3 b ++ f3 a).toNat = op.toNat * 2 ^ 9 + imm3.toNat * 2 ^ 6 + b.val * 2 ^ 3 + a.val := by
  simp only [toNat_append_eq_add, BitVec.toNat_ofNat]; omega

theorem f3_toNat : (f3 a).toNat = a.val := Nat.mod_eq_of_lt a.isLt

theorem threeRegWord_toNat (op : BitVec 7) :
    (op ++ f3 c ++ f3 b ++ f3 a).toNat = op.toNat * 2 ^ 9 + c.val * 2 ^ 6 + b.val * 2 ^ 3 + a.val := by
  rw [imm3Word_toNat, f3_toNat]

theorem imm8Word_toNat (op : BitVec 5) (imm8 : BitVec 8) :
    (op ++ f3 a ++ imm8).toNat = op.toNat * 2 ^ 11 + a.val * 2 ^ 8 + imm8.toNat := by
  simp only [toNat_append_eq_add, BitVec.toNat_ofNat]; omega

end

/-- A CMP of two registers that are not both low, neither of them 15, meets its row's constraint (spec 30 R77). -/
theorem cmpHi_wellFormed {n m : Reg} (h : ¬((n.val < 8 ∧ m.val < 8) ∨ n = 15 ∨ m = 15)) : (Instr.cmpHi n m).WellFormed := by
  simpa [Instr.WellFormed, Instr.wellFormed, Fin.ext_iff, -not_and, not_and_or, and_assoc] using h

/-! ### N and Z as the shifts and the additions write them (spec 40 R97) -/

theorem nzFlags_setNZC (f : Flags) (v : Word) (c : Bool) : nzFlags (f.setNZC v c) v := nzFlags_setNZ f v

theorem nzFlags_ofAdd (r : AddOut) : nzFlags (.ofAdd r) r.result := nzFlags_setNZ (.ofAdd r) r.result

/-! ### Shifts (spec 41 R108 to R110, 42 R125 to R128) -/

section
variable (s : State) (rd : LowReg) (x : Word)

/-- What `writeShift` leaves, whatever value and carry it is given. -/
theorem writeShift_eq_next (r : Word × Bool) : ∃ t, writeShift (lo rd) r s = .next t ∧ t.x (lo rd) = r.1 ∧
    t.cpu.flags = s.cpu.flags.setNZC r.1 r.2 ∧ t.stepCycles = 1 ∧ registerFrame s t [lo rd] :=
  ⟨_, rfl, State.x_setX_same s _ r.1 (lo_lt rd), rfl, rfl, registerFrame_setX (lo rd) r.1⟩

/-- A `Shift_C` written with its flags: bits and carry by `shiftLaw`. -/
theorem shiftResult_writeShift (kind : ShiftKind) (n : Nat) :
    ∃ t, writeShift (lo rd) (shiftC x kind n s.cpu.flags.c) s = .next t ∧ shiftResult s (lo rd) kind x n t := by
  obtain ⟨hbits, hcarry⟩ := shiftLaw x kind n s.cpu.flags.c
  obtain ⟨t, ht, hx, hflags, hrest⟩ := writeShift_eq_next s rd (shiftC x kind n s.cpu.flags.c)
  refine ⟨t, ht, ?_, ?_, ?_, ?_, hrest⟩
  · rwa [hx]
  · rw [hx, hflags]
    exact nzFlags_setNZC ..
  · rw [hflags]
    exact hcarry
  · rw [hflags]
    rfl

theorem rightShiftAmount_eq (imm5 : BitVec 5) : rightShiftAmount imm5 = if imm5.toNat = 0 then 32 else imm5.toNat := by
  simp only [rightShiftAmount, BitVec.toNat_eq, BitVec.toNat_ofNat, Nat.zero_mod]

theorem rightShiftAmount_ne_zero (imm5 : BitVec 5) : rightShiftAmount imm5 ≠ 0 := by
  rw [rightShiftAmount_eq]; split <;> omega

/-- A right shift by a constant never has amount 0, where `Shift_C` and the shift itself agree. -/
theorem shiftResult_writeShift_right (kind : ShiftKind) (imm5 : BitVec 5) :
    ∃ t, writeShift (lo rd) (shiftBy kind x (rightShiftAmount imm5)) s = .next t ∧
      shiftResult s (lo rd) kind x (if imm5.toNat = 0 then 32 else imm5.toNat) t := by
  rw [← rightShiftAmount_eq]
  have hshift := shiftResult_writeShift s rd x kind (rightShiftAmount imm5)
  rwa [shiftC, if_neg (rightShiftAmount_ne_zero imm5)] at hshift

end

/-- Settles O16: the three shifts share their tail `writeShift`, LSRS and ASRS with an amount other than 0. -/
theorem shiftImmediate : Obligations.ShiftImmediate := by
  intro s rd rm imm5
  exact ⟨⟨decode_eq_ok_of_encode_eq (enc16_eq (shiftImmWord_toNat rd rm _ imm5)) rfl, shiftResult_writeShift s rd _ .lsl _⟩,
    ⟨decode_eq_ok_of_encode_eq (enc16_eq (shiftImmWord_toNat rd rm _ imm5)) rfl, shiftResult_writeShift_right s rd _ .lsr imm5⟩,
    ⟨decode_eq_ok_of_encode_eq (enc16_eq (shiftImmWord_toNat rd rm _ imm5)) rfl, shiftResult_writeShift_right s rd _ .asr imm5⟩⟩

/-! ### The flags of sums and differences (spec 40 R97, R98) -/

section
variable (x y : Word)

theorem addWithCarry_result (c : Bool) : (addWithCarry x y c).result = x + y + BitVec.ofNat 32 c.toNat := by
  simp [addWithCarry, BitVec.ofNat_add]

/-- Adding the complement with the inverted borrow as carry subtracts. -/
theorem addWithCarry_not_result_borrow (b : Bool) :
    (addWithCarry x (~~~y) !b).result = x - y - BitVec.ofNat 32 b.toNat := by
  rw [addWithCarry_result]
  cases b <;> simp only [Bool.not_true, Bool.not_false, Bool.toNat_true, Bool.toNat_false] <;> bv_omega

theorem addFlags_ofAdd (c : Bool) : addFlags (.ofAdd (addWithCarry x y c)) (addWithCarry x y c).result x y c :=
  ⟨nzFlags_ofAdd _, addWithCarry_carry_iff, addWithCarry_overflow_iff_toInt⟩

/-- The flags of a sum with the complement are those of the difference: `~y` is `2^32 - 1 - y` unsigned and `-y - 1` signed. -/
theorem subFlags_ofAdd (b : Bool) :
    subFlags (.ofAdd (addWithCarry x (~~~y) !b)) (addWithCarry x (~~~y) !b).result x y b := by
  obtain ⟨hnz, hc, hv⟩ := addFlags_ofAdd x (~~~y) !b
  have hnot : (!b).toNat = 1 - b.toNat := by cases b <;> rfl
  have hb : b.toNat ≤ 1 := b.toNat_le
  rw [hnot, BitVec.toNat_not] at hc
  rw [hnot, toInt_not_eq_neg_sub_one] at hv
  exact ⟨hnz, hc.trans (by omega), hv.trans (by omega)⟩

end

/-! ### Additions, subtractions and comparisons (spec 40 R103, 41 R111 to R118) -/

section
variable (s : State) (rd : LowReg) (x y : Word)

/-- What `writeAdd` leaves, whatever its flags mean. -/
theorem writeAdd_eq_next (r : AddOut) : ∃ t, writeAdd (lo rd) r s = .next t ∧ t.x (lo rd) = r.result ∧
    t.cpu.flags = .ofAdd r ∧ t.stepCycles = 1 ∧ registerFrame s t [lo rd] :=
  ⟨_, rfl, State.x_setX_same s _ r.result (lo_lt rd), rfl, rfl, registerFrame_setX (lo rd) r.result⟩

theorem addResult_writeAdd (c : Bool) :
    ∃ t, writeAdd (lo rd) (addWithCarry x y c) s = .next t ∧ addResult s (lo rd) x y c t := by
  obtain ⟨t, ht, hx, hflags, hrest⟩ := writeAdd_eq_next s rd (addWithCarry x y c)
  refine ⟨t, ht, hx.trans (addWithCarry_result x y c), ?_, hrest⟩
  rw [hx, hflags]
  exact addFlags_ofAdd x y c

theorem subResult_writeAdd (b : Bool) :
    ∃ t, writeAdd (lo rd) (addWithCarry x (~~~y) !b) s = .next t ∧ subResult s (lo rd) x y b t := by
  obtain ⟨t, ht, hx, hflags, hrest⟩ := writeAdd_eq_next s rd (addWithCarry x (~~~y) !b)
  refine ⟨t, ht, hx.trans (addWithCarry_not_result_borrow x y b), ?_, hrest⟩
  rw [hx, hflags]
  exact subFlags_ofAdd x y b

theorem cmpResult_compareAdd : ∃ t, compareAdd (addWithCarry x (~~~y) true) s = .next t ∧ cmpResult s x y t := by
  refine ⟨_, rfl, ?_, rfl, registerFrame_refl⟩
  rw [← addWithCarry_not_result]
  exact subFlags_ofAdd x y false

end

/-- Settles O18: the six rows share their tail `writeAdd`, on a sum or on a sum with the complement. -/
theorem addSubtract : Obligations.AddSubtract := by
  intro s rd rn rm imm3 imm8
  rw [← zext_eq_ofNat imm3, ← zext_eq_ofNat imm8]
  exact ⟨
    ⟨decode_eq_ok_of_encode_eq (enc16_eq (threeRegWord_toNat rd rn rm _)) rfl, addResult_writeAdd s rd _ _ false⟩,
    ⟨decode_eq_ok_of_encode_eq (enc16_eq (threeRegWord_toNat rd rn rm _)) rfl, subResult_writeAdd s rd _ _ false⟩,
    ⟨decode_eq_ok_of_encode_eq (enc16_eq (imm3Word_toNat rd rn _ imm3)) rfl, addResult_writeAdd s rd _ _ false⟩,
    ⟨decode_eq_ok_of_encode_eq (enc16_eq (imm3Word_toNat rd rn _ imm3)) rfl, subResult_writeAdd s rd _ _ false⟩,
    ⟨decode_eq_ok_of_encode_eq (enc16_eq (imm8Word_toNat rd _ imm8)) rfl, addResult_writeAdd s rd _ _ false⟩,
    ⟨decode_eq_ok_of_encode_eq (enc16_eq (imm8Word_toNat rd _ imm8)) rfl, subResult_writeAdd s rd _ _ false⟩⟩

/-- Settles O20: the four rows share their tail `compareAdd`, which writes no register; CMN keeps the flags of a sum. -/
theorem comparisonsWriteFlagsOnly : Obligations.ComparisonsWriteFlagsOnly := by
  intro s rn rm imm8 n m
  rw [← zext_eq_ofNat imm8]
  refine ⟨⟨decode_eq_ok_of_encode_eq (enc16_eq (imm8Word_toNat rn _ imm8)) rfl, cmpResult_compareAdd s _ _⟩,
    ⟨encodes16_of_encode_eq _ rn rm rfl rfl, cmpResult_compareAdd s _ _⟩,
    ⟨encodes16_of_encode_eq _ rn rm rfl rfl, _, rfl, ?cmn, rfl, registerFrame_refl⟩,
    ⟨fun h => refusedWord_of_encode (i := .cmpHi n m) (enc16_eq (hiWord_toNat _ n m)) (cmpHi_wellFormed_eq_false h),
      fun h => decode_eq_ok_of_encode_eq (enc16_eq (hiWord_toNat _ n m)) (cmpHi_wellFormed h), cmpResult_compareAdd s _ _⟩⟩
  case cmn =>
    have hsum : (addWithCarry (s.x (lo rn)) (s.x (lo rm)) false).result = s.x (lo rn) + s.x (lo rm) := by
      rw [addWithCarry_result, Bool.toNat_false, BitVec.add_zero]
    rw [← hsum]
    exact addFlags_ofAdd _ _ false

end Sys2Proof.Machine
end

section
/-! PROOFS. Data processing (spec 42): shifts by a register (R125 to R128), arithmetic with carry (R129 to R131), ADD and MOV of any
registers (R135, R137). -/

namespace Sys2Proof.Machine

/-! ### Shifts by a register (spec 42 R125 to R128) -/

/-- The amount of a shift by a register is its low byte. -/
theorem shiftAmount_eq_mod (v : Word) : shiftAmount v = v.toNat % 256 := by
  rw [shiftAmount, BitVec.extractLsb'_toNat, Nat.shiftRight_zero]

/-- Settles O17: the four rows are `Shift_C` by the low byte of Rm, written by `writeShift`. -/
theorem shiftRegister : Obligations.ShiftRegister := by
  intro s rdn rm
  rw [← shiftAmount_eq_mod (s.x (lo rm))]
  exact ⟨⟨encodes16_of_encode_eq _ rdn rm rfl rfl, shiftResult_writeShift s rdn _ .lsl _⟩,
    ⟨encodes16_of_encode_eq _ rdn rm rfl rfl, shiftResult_writeShift s rdn _ .lsr _⟩,
    ⟨encodes16_of_encode_eq _ rdn rm rfl rfl, shiftResult_writeShift s rdn _ .asr _⟩,
    ⟨encodes16_of_encode_eq _ rdn rm rfl rfl, shiftResult_writeShift s rdn _ .ror _⟩⟩

/-! ### Arithmetic with carry (spec 42 R129 to R131) -/

/-- The sum is symmetric, and so is an overflow, which takes operands of one sign. -/
theorem addWithCarry_comm (x y : Word) (c : Bool) : addWithCarry x y c = addWithCarry y x c := by
  simp only [addWithCarry, Nat.add_comm x.toNat y.toNat]
  cases x.msb <;> cases y.msb <;> rfl

/-- RSBS adds 0 to the complement, the operands of `0 - y` in the other order. -/
theorem subResult_writeAdd_zero (s : State) (rd : LowReg) (y : Word) :
    ∃ t, writeAdd (lo rd) (addWithCarry (~~~y) 0#32 true) s = .next t ∧ subResult s (lo rd) 0#32 y false t := by
  rw [addWithCarry_comm]
  exact subResult_writeAdd s rd 0#32 y false

/-- SBCS borrows when C is clear. -/
theorem subResult_writeAdd_carry (s : State) (rd : LowReg) (x y : Word) (c : Bool) :
    ∃ t, writeAdd (lo rd) (addWithCarry x (~~~y) c) s = .next t ∧ subResult s (lo rd) x y (!c) t := by
  have hsub := subResult_writeAdd s rd x y !c
  rwa [Bool.not_not] at hsub

/-- Settles O19: the three rows share their tail `writeAdd`; SBCS adds the complement with C, RSBS the complement to 0 with carry 1. -/
theorem carryArithmetic : Obligations.CarryArithmetic := by
  intro s rd rm
  exact ⟨⟨encodes16_of_encode_eq _ rd rm rfl rfl, addResult_writeAdd s rd _ _ s.cpu.flags.c⟩,
    ⟨encodes16_of_encode_eq _ rd rm rfl rfl, subResult_writeAdd_carry s rd _ _ s.cpu.flags.c⟩,
    ⟨encodes16_of_encode_eq _ rd rm rfl rfl, subResult_writeAdd_zero s rd _⟩⟩

/-! ### ADD and MOV of any registers (spec 42 R135, R137) -/

section
variable (s : State) {d : Reg} (v : Word)

/-- A destination other than 15 is written as data. -/
theorem plainResult_writeOrBranch (hd : d ≠ 15) : ∃ t, writeOrBranch d v s = .next t ∧ plainResult s d v 1 t :=
  ⟨_, if_neg (mt Fin.ext hd), State.x_setX_same s d v (val_lt_of_ne_pc hd), State.setX_cpu_flags s d v, rfl,
    registerFrame_setX d v⟩

/-- Destination 15 is a branch (spec 40 R106). -/
theorem branchResult_writeOrBranch (hd : d = 15) : ∃ t, writeOrBranch d v s = .next t ∧ branchResult s [] v 2 t :=
  ⟨_, if_pos (Fin.val_eq_of_eq hd), branchFrame_branchTo registerFrame_refl rfl v, rfl⟩

end

/-- An ADD of two registers that are not both 15 meets its row's constraint (spec 30 R77). -/
theorem addHi_wellFormed {d m : Reg} (h : ¬(d = 15 ∧ m = 15)) : (Instr.addHi d m).WellFormed := by
  simpa [Instr.WellFormed, Instr.wellFormed, Fin.ext_iff, -not_and, not_and_or] using h

/-- Settles O22: both rows share their tail `writeOrBranch`, which asks whether the destination is 15. -/
theorem highRegister : Obligations.HighRegister := by
  intro s d m
  refine ⟨⟨refusedWord_of_encode (i := .addHi 15 15) rfl rfl,
      fun h => decode_eq_ok_of_encode_eq (enc16_eq (hiWord_toNat _ d m)) (addHi_wellFormed h),
      plainResult_writeOrBranch s _, ?addPc⟩,
    ⟨decode_eq_ok_of_encode_eq (enc16_eq (hiWord_toNat _ d m)) rfl, plainResult_writeOrBranch s _,
      branchResult_writeOrBranch s _⟩⟩
  case addPc =>
    rintro rfl
    exact branchResult_writeOrBranch s _ rfl

end Sys2Proof.Machine
end

section
/-! PROOFS. Single loads and stores (spec 43): their words, and what the tails `loadInto` and `storeFrom` answer. -/

namespace Sys2Proof.Machine

/-! ### The words as numbers (spec 30 R67) -/

/-- A word of seven fixed bits and three low registers, by what its instruction encodes to. -/
theorem encodes16_of_threeReg {i : Instr} (op : BitVec 7) (a b c : LowReg)
    (h : encode i = enc16 (op.toNat * 2 ^ 9 + c.val * 2 ^ 6 + b.val * 2 ^ 3 + a.val)) (hi : i.WellFormed) :
    encodes16 (op ++ f3 c ++ f3 b ++ f3 a) i :=
  decode_eq_ok_of_encode_eq (h.trans (enc16_eq (threeRegWord_toNat a b c op))) hi

/-- A word of five fixed bits, a 5-bit offset and two low registers, by what its instruction encodes to. -/
theorem encodes16_of_imm5 {i : Instr} (op imm5 : BitVec 5) (a b : LowReg)
    (h : encode i = enc16 (op.toNat * 2 ^ 11 + imm5.toNat * 2 ^ 6 + b.val * 2 ^ 3 + a.val)) (hi : i.WellFormed) :
    encodes16 (op ++ imm5 ++ f3 b ++ f3 a) i :=
  decode_eq_ok_of_encode_eq (h.trans (enc16_eq (shiftImmWord_toNat a b op imm5))) hi

/-- A word of five fixed bits, a low register and an 8-bit offset, by what its instruction encodes to. -/
theorem encodes16_of_imm8 {i : Instr} (op : BitVec 5) (a : LowReg) (imm8 : BitVec 8)
    (h : encode i = enc16 (op.toNat * 2 ^ 11 + a.val * 2 ^ 8 + imm8.toNat)) (hi : i.WellFormed) :
    encodes16 (op ++ f3 a ++ imm8) i :=
  decode_eq_ok_of_encode_eq (h.trans (enc16_eq (imm8Word_toNat a op imm8))) hi

/-! ### The value loaded (spec 20 R51, 43 R142, R146) -/

/-- The address of LDR (literal) is aligned: both its terms are multiples of 4 (spec 43 R138). -/
theorem pcAddr_toNat_mod_four (s : State) (imm8 : BitVec 8) : (pcAddr s imm8).toNat % 4 = 0 := by
  rw [pcAddr, wordScaled_eq_ofNat, BitVec.toNat_add, toNat_align4, BitVec.toNat_ofNat]
  omega

theorem toNat_load_eq_leNat (s : State) (addr : Word) (w : Width) : (s.mem.load addr w).toNat = leNat s addr w.bytes :=
  Memory.toNat_load ..

/-- The sign extension of the low bits has the signed value of the number modulo `2 ^ n`. -/
theorem toInt_sext_low {n : Nat} (hn : n ≤ 32) (v : Word) :
    (sext (v.extractLsb' 0 n)).toInt = (BitVec.ofNat n v.toNat).toInt := by
  rw [sext, BitVec.toInt_signExtend_of_le hn, BitVec.extractLsb', Nat.shiftRight_zero]

/-! ### Loads (spec 20 R55, 43) -/

section
variable {i : Instr} {s : State} {rt : LowReg} {addr : Word} {w : Width} {extend : Word → Word}

theorem memRead_of_readable (hp : s.params.legal) (h : readable s addr w) : memRead s addr w = .ok (s.mem.load addr w) := by
  obtain ⟨ha, hm⟩ := h
  exact memRead_eq_ok.mpr ⟨aligned_iff.mpr ha, (allMapped_of_aligned hp ha).trans hm, rfl⟩

/-- On a readable address `loadInto` writes the extended value and nothing else. -/
theorem plainResult_loadInto (hp : s.params.legal) (h : readable s addr w) :
    ∃ t, loadInto (lo rt) addr w extend s = .next t ∧ plainResult s (lo rt) (extend (s.mem.load addr w)) 2 t := by
  rw [loadInto, memRead_of_readable hp h, orFault_ok]
  exact ⟨_, rfl, State.x_setX_same s _ _ (lo_lt rt), State.setX_cpu_flags .., rfl, registerFrame_setX (lo rt) _⟩

/-- The faults of a load are those of its read. -/
theorem loadFaults_of_loadInto (hp : s.params.legal) (hi : exec i s = loadInto (lo rt) addr w extend s) :
    loadFaults i s addr w := by
  obtain ⟨halign, hregion, -⟩ := memoryReads s addr w hp
  refine ⟨fun ha => ?_, fun ha hm => ?_⟩
  · rw [hi, loadInto, halign ha, orFault_error]
  · rw [hi, loadInto, hregion ha hm, orFault_error]

theorem loadRule_of_loadInto (hp : s.params.legal) (hi : exec i s = loadInto (lo rt) addr w asRead s) :
    loadRule i s (lo rt) addr w := by
  refine ⟨loadFaults_of_loadInto hp hi, fun h => ?_⟩
  obtain ⟨t, ht, hx, hrest⟩ := plainResult_loadInto hp h
  refine ⟨t, hi.trans ht, ?_, hrest⟩
  rw [hx, asRead, toNat_load_eq_leNat]

theorem signedLoadRule_of_loadInto (hp : s.params.legal) (hi : exec i s = loadInto (lo rt) addr w extend s)
    (hext : ∀ v, (extend v).toInt = (BitVec.ofNat (8 * w.bytes) v.toNat).toInt) : signedLoadRule i s (lo rt) addr w := by
  refine ⟨loadFaults_of_loadInto hp hi, fun h => ?_⟩
  obtain ⟨t, ht, hx, hrest⟩ := plainResult_loadInto hp h
  refine ⟨t, hi.trans ht, ?_, hrest⟩
  rw [hx, hext, toNat_load_eq_leNat]

end

/-- Settles O24: the ten rows share their tail `loadInto`, which faults as its read does; LDRSH and LDRSB extend the sign
of the low bits. -/
theorem loadsCompleteOrFault : Obligations.LoadsCompleteOrFault := by
  intro s rt rn rm imm5 imm8 hp
  exact ⟨pcAddr_toNat_mod_four s imm8,
    ⟨encodes16_of_imm8 _ rt imm8 rfl rfl, loadRule_of_loadInto hp rfl⟩,
    ⟨encodes16_of_threeReg _ rt rn rm rfl rfl, loadRule_of_loadInto hp rfl⟩,
    ⟨encodes16_of_threeReg _ rt rn rm rfl rfl, loadRule_of_loadInto hp rfl⟩,
    ⟨encodes16_of_threeReg _ rt rn rm rfl rfl, loadRule_of_loadInto hp rfl⟩,
    ⟨encodes16_of_threeReg _ rt rn rm rfl rfl, signedLoadRule_of_loadInto hp rfl (toInt_sext_low (n := 16) (by decide))⟩,
    ⟨encodes16_of_threeReg _ rt rn rm rfl rfl, signedLoadRule_of_loadInto hp rfl (toInt_sext_low (n := 8) (by decide))⟩,
    ⟨encodes16_of_imm5 _ imm5 rt rn rfl rfl, loadRule_of_loadInto hp rfl⟩,
    ⟨encodes16_of_imm5 _ imm5 rt rn rfl rfl, loadRule_of_loadInto hp rfl⟩,
    ⟨encodes16_of_imm5 _ imm5 rt rn rfl rfl, loadRule_of_loadInto hp rfl⟩,
    ⟨encodes16_of_imm8 _ rt imm8 rfl rfl, loadRule_of_loadInto hp rfl⟩⟩

/-! ### Stores (spec 20 R56, 43) -/

section
variable {i : Instr} {s : State} {rt : LowReg} {addr : Word} {w : Width}

theorem memWrite_of_writable (hp : s.params.legal) (h : writable s addr w) (v : Word) :
    memWrite s addr w v = .ok (s.setMem (s.mem.store addr w v)) := by
  obtain ⟨ha, hd⟩ := h
  exact memWrite_eq_ok.mpr ⟨aligned_iff.mpr ha, (allData_of_aligned hp ha).trans hd, rfl⟩

/-- On a writable address `storeFrom` writes the low bytes of the register and nothing else. -/
theorem storeResult_storeFrom (hp : s.params.legal) (hm : s.mem.wf) (h : writable s addr w) :
    ∃ t, storeFrom (lo rt) addr w s = .next t ∧ storeResult s (lo rt) addr w t := by
  rw [storeFrom, memWrite_of_writable hp h, orFault_ok]
  exact ⟨_, rfl, Memory.read_store_inside s.mem hm addr w _, rfl, fun _ _ _ => rfl, rfl, ⟨rfl, rfl, rfl⟩, ⟨rfl, rfl⟩,
    Memory.read_store_outside s.mem hm addr w _, rfl, rfl, rfl, rfl, rfl, rfl⟩

/-- A store faults as its write does, and else leaves what `storeFrom` leaves. -/
theorem storeRule_of_storeFrom (hp : s.params.legal) (hm : s.mem.wf) (hi : exec i s = storeFrom (lo rt) addr w s) :
    storeRule i s (lo rt) addr w := by
  obtain ⟨halign, hregion, -⟩ := memoryWrites s addr w (s.x (lo rt)) hp hm
  refine ⟨⟨fun ha => ?_, fun ha hd => ?_⟩, fun h => ?_⟩
  · rw [hi, storeFrom, halign ha, orFault_error]
  · rw [hi, storeFrom, hregion ha hd, orFault_error]
  · rw [runs, hi]
    exact storeResult_storeFrom hp hm h

end

/-- Settles O25: the seven rows share their tail `storeFrom`, which faults as its write does. -/
theorem storesCompleteOrFault : Obligations.StoresCompleteOrFault := by
  intro s rt rn rm imm5 imm8 hp hm
  exact ⟨⟨encodes16_of_threeReg _ rt rn rm rfl rfl, storeRule_of_storeFrom hp hm rfl⟩,
    ⟨encodes16_of_threeReg _ rt rn rm rfl rfl, storeRule_of_storeFrom hp hm rfl⟩,
    ⟨encodes16_of_threeReg _ rt rn rm rfl rfl, storeRule_of_storeFrom hp hm rfl⟩,
    ⟨encodes16_of_imm5 _ imm5 rt rn rfl rfl, storeRule_of_storeFrom hp hm rfl⟩,
    ⟨encodes16_of_imm5 _ imm5 rt rn rfl rfl, storeRule_of_storeFrom hp hm rfl⟩,
    ⟨encodes16_of_imm5 _ imm5 rt rn rfl rfl, storeRule_of_storeFrom hp hm rfl⟩,
    ⟨encodes16_of_imm8 _ rt imm8 rfl rfl, storeRule_of_storeFrom hp hm rfl⟩⟩

end Sys2Proof.Machine
end

section
/-! PROOFS. Transfers of many registers (spec 44): their words, what a sequence of loads or stores does, STM, LDM, PUSH, POP. -/

namespace Sys2Proof.Machine

/-! ### Register lists (spec 30 R71, 44) -/

section
variable {list : BitVec 8}

theorem mem_maskRegs {r : Reg} : r ∈ maskRegs list ↔ r ∈ listRegs list := by
  rw [mem_listRegs, maskRegs, List.mem_filter, Bool.and_eq_true, decide_eq_true_iff]
  constructor
  · rintro ⟨-, hlt, hbit⟩
    exact ⟨⟨r.val, hlt⟩, hbit, rfl⟩
  · rintro ⟨i, hbit, rfl⟩
    exact ⟨List.mem_finRange _, i.isLt, hbit⟩

/-- Where a list field names a register, as many registers stand before it as it has lower bits set. -/
theorem listRegs_split {i : LowReg} (hi : list.getLsbD i.val = true) :
    ∃ below above, listRegs list = below ++ lo i :: above ∧ below.length = placeIn list i.val := by
  have hlow : ∃ below above, lowRegs = below ++ i :: above ∧ List.range i.val = below.map Fin.val :=
    ⟨lowRegs.take i.val, lowRegs.drop (i.val + 1), by clear hi; revert i; decide⟩
  obtain ⟨below, above, hregs, hrange⟩ := hlow
  refine ⟨(below.filter fun r => list.getLsbD r.val).map lo, (above.filter fun r => list.getLsbD r.val).map lo, ?_, ?_⟩
  · rw [listRegs, hregs, List.filter_append, List.filter_cons_of_pos (by exact hi), List.map_append, List.map_cons]
  · rw [List.length_map, placeIn, hrange, List.filter_map, List.length_map]
    rfl

theorem getElem?_listRegs_placeIn {i : LowReg} (hi : list.getLsbD i.val = true) :
    (listRegs list)[placeIn list i.val]? = some (lo i) := by
  obtain ⟨below, above, hsplit, hlen⟩ := listRegs_split hi
  rw [hsplit, ← hlen, List.getElem?_append_right le_rfl, Nat.sub_self, List.getElem?_cons_zero]

theorem bitCount_eq_zero_iff : bitCount list = 0 ↔ list = 0#8 := by
  rw [bitCount, placeIn, List.length_eq_zero_iff, List.filter_eq_nil_iff]
  constructor
  · intro h
    refine BitVec.eq_of_getLsbD_eq fun i hi => ?_
    rw [BitVec.getLsbD_zero]
    exact Bool.eq_false_iff.mpr (h i (List.mem_range.mpr hi))
  · rintro rfl i -
    simp

theorem length_listRegs_pos (h : list ≠ 0#8) : 0 < (listRegs list).length := by
  rw [length_listRegs]
  exact Nat.pos_of_ne_zero (mt bitCount_eq_zero_iff.mp h)

theorem bitCount_le : bitCount list ≤ 8 := List.length_filter_le _ (List.range 8)

theorem bitCount_add_toNat_le (m : Bool) : bitCount list + m.toNat ≤ 9 := Nat.add_le_add bitCount_le m.toNat_le

theorem length_pushRegs (m : Bool) : (pushRegs m list).length = bitCount list + m.toNat := by
  rw [pushRegs, List.length_append, length_listRegs]
  cases m <;> rfl

end

/-! ### The words (spec 30 R67, R75, R77) -/

section
variable {list : BitVec 8}

/-- The word of PUSH and POP as a number. -/
theorem pushPopWord_toNat (op : BitVec 7) (m : Bool) :
    (op ++ BitVec.ofBool m ++ list).toNat = op.toNat * 2 ^ 9 + m.toNat * 2 ^ 8 + list.toNat := by
  simp only [toNat_append_eq_add, BitVec.toNat_ofBool]; omega

/-- A register with no other one of the list below it is the lowest of the list. -/
theorem isLowest_of_forall {n : LowReg} (hn : list.getLsbD n.val = true)
    (h : ∀ j : LowReg, j < n → list.getLsbD j.val = false) : isLowest n list = true := by
  have hlow : list.toNat % 2 ^ n.val = 0 := by
    refine Nat.eq_of_testBit_eq fun j => ?_
    rw [Nat.testBit_mod_two_pow, Nat.zero_testBit]
    by_cases hj : j < n.val
    · rw [decide_eq_true hj, Bool.true_and]
      exact h ⟨j, hj.trans n.isLt⟩ hj
    · rw [decide_eq_false hj, Bool.false_and]
  rw [isLowest, hn, hlow]
  rfl

theorem stm_wellFormed {n : LowReg} (hlist : list ≠ 0#8)
    (h : list.getLsbD n.val = true → ∀ j : LowReg, j < n → list.getLsbD j.val = false) : (Instr.stm n list).WellFormed := by
  show (list != 0#8 && (!list.getLsbD n.val || isLowest n list)) = true
  rw [bne_iff_ne.mpr hlist, Bool.true_and]
  cases hn : list.getLsbD n.val with
  | false => rfl
  | true => exact isLowest_of_forall hn (h hn)

/-- PUSH and POP have something to transfer when they meet their row's constraint. -/
theorem or_list_ne_zero_iff {m : Bool} : (m || list != 0) = true ↔ bitCount list + m.toNat ≠ 0 := by
  have hlist : (list != 0) = true ↔ bitCount list ≠ 0 := bne_iff_ne.trans (not_congr bitCount_eq_zero_iff.symm)
  cases m with
  | false => exact hlist
  | true => exact iff_of_true rfl (Nat.succ_ne_zero _)

/-- The word of PUSH or POP decodes to it where there is something to transfer, and else is refused. -/
theorem pushPopWord {i : Instr} (op : BitVec 7) (m : Bool)
    (h : encode i = enc16 (op.toNat * 2 ^ 9 + m.toNat * 2 ^ 8 + list.toNat)) (hi : i.wellFormed = (m || list != 0)) :
    (bitCount list + m.toNat ≠ 0 → encodes16 (op ++ BitVec.ofBool m ++ list) i) ∧
      (bitCount list + m.toNat = 0 → refusedWord (op ++ BitVec.ofBool m ++ list) none) := by
  have henc := h.trans (enc16_eq (pushPopWord_toNat op m))
  refine ⟨fun hn => decode_eq_ok_of_encode_eq henc (hi.trans (or_list_ne_zero_iff.mpr hn)), fun hn => ?_⟩
  exact refusedWord_of_encode henc (hi.trans (Bool.eq_false_iff.mpr (mt or_list_ne_zero_iff.mp (not_not.mpr hn))))

end

/-! ### A word of a transfer (spec 20 R51, R53, R58) -/

/-- A word whose four bytes are those of a value is that value. -/
theorem Memory.load_word_eq {m : Memory} {addr v : Word} (h : ∀ j < 4, m.read (byteAddr addr j) = byteOf v j) :
    m.load addr .word = v := by
  have hhigh : byteOf v 3 ++ byteOf v 2 ++ byteOf v 1 = v.extractLsb' 8 24 := by
    rw [byteOf_append_byteOf]
    exact BitVec.extractLsb'_append_extractLsb'_eq_extractLsb' rfl
  simp only [Memory.load]
  rw [h 0 (by decide), h 1 (by decide), h 2 (by decide), h 3 (by decide), hhigh]
  exact (BitVec.extractLsb'_append_extractLsb'_eq_extractLsb' rfl).trans BitVec.extractLsb'_eq_self

section
variable {s u : State} {base : Word} {k n : Nat}

/-- Loads see memory through its bytes only. -/
theorem word_eq_of_keepsBytes (h : keepsBytes s u) (addr : Word) : u.word addr = s.word addr := by
  simp only [State.word, Memory.load]
  rw [h, h, h, h]

/-- A word of a transfer is aligned as its base is. -/
theorem wordAddr_toNat_mod_four (base : Word) (k : Nat) : (wordAddr base k).toNat % 4 = base.toNat % 4 := by
  rw [BitVec.toNat_add, BitVec.toNat_ofNat]; omega

theorem wordAddr_zero (base : Word) : wordAddr base 0 = base := BitVec.add_zero ..

theorem aligned_and_allMapped (hp : s.params.legal) {addr : Word} (h : readable s addr .word) :
    aligned addr .word = true ∧ allMapped s.params addr .word = true := by
  obtain ⟨ha, hm, -⟩ := memRead_eq_ok.mp (memRead_of_readable hp h)
  exact ⟨ha, hm⟩

theorem aligned_and_allData (hp : s.params.legal) {addr : Word} (h : writable s addr .word) :
    aligned addr .word = true ∧ allData s.params addr .word = true := by
  obtain ⟨ha, hd, -⟩ := memWrite_eq_ok.mp (memWrite_of_writable hp h 0)
  exact ⟨ha, hd⟩

/-- Words in an aligned row can all be written, or there is a first one outside the data region. -/
theorem wordsWritable_or_first (ha : base.toNat % 4 = 0) (n : Nat) :
    wordsWritable s base n ∨
      ∃ k < n, wordsWritable s base k ∧ inData s.params (wordAddr base k).toNat = false := by
  induction n with
  | zero => exact .inl nofun
  | succ n ih =>
    obtain hw | ⟨k, hk, hbad⟩ := ih
    · cases hd : inData s.params (wordAddr base n).toNat with
      | false => exact .inr ⟨n, Nat.lt_succ_self n, hw, hd⟩
      | true =>
        refine .inl fun k hk => ?_
        obtain hk | rfl := Nat.lt_succ_iff_lt_or_eq.mp hk
        · exact hw k hk
        · exact ⟨(wordAddr_toNat_mod_four base k).trans ha, hd⟩
    · exact .inr ⟨k, hk.trans (Nat.lt_succ_self n), hbad⟩

end

/-! ### Frames -/

section
variable {s u : State} {dest : List Reg} {r : Reg}

theorem keepsRegs_setX_cost (h : keepsRegs s u dest) (r : Reg) (v : Word) (c : CycleClass) :
    keepsRegs s ((u.setX r v).cost c) (r :: dest) := by
  intro q h15 hq
  rw [State.cost_x, State.x_setX_of_ne _ _ _ _ (List.ne_of_not_mem_cons hq), h q h15 (List.not_mem_of_not_mem_cons hq)]

/-- A register write and the cost extend the frame by the register. -/
theorem registerFrame_setX_cost (h : registerFrame s u dest) (r : Reg) (v : Word) (c : CycleClass) :
    registerFrame s ((u.setX r v).cost c) (r :: dest) := by
  obtain ⟨hregs, hcontrol, ⟨hpc, hbranch⟩, hbytes, hexit, hloop⟩ := h
  exact ⟨keepsRegs_setX_cost hregs r v c, keepsControl_setX_cost hcontrol r v c,
    ⟨by rw [State.cost_cpu, State.setX_cpu_pcReg, hpc], hbranch⟩, hbytes, hexit, hloop⟩

theorem storeFrame_setX_cost {addr : Word} {n : Nat} (h : storeFrame s u dest addr n) (r : Reg) (v : Word) (c : CycleClass) :
    storeFrame s ((u.setX r v).cost c) (r :: dest) addr n := by
  obtain ⟨hregs, hflags, hcontrol, ⟨hpc, hbranch⟩, hbytes, hexit, hloop⟩ := h
  exact ⟨keepsRegs_setX_cost hregs r v c, keepsFlags_setX_cost hflags r v c, keepsControl_setX_cost hcontrol r v c,
    ⟨by rw [State.cost_cpu, State.setX_cpu_pcReg, hpc], hbranch⟩, hbytes, hexit, hloop⟩

/-- A read after an instruction's loads reads as before them. -/
theorem memRead_eq_of_registerFrame (hm : u.mem = s.mem) (h : registerFrame s u dest) {addr : Word} {w : Width} :
    memRead u addr w = memRead s addr w := by
  obtain ⟨-, -, -, -, -, -, -, -, -, hparams⟩ := h
  exact memRead_congr hm hparams addr w

/-- A frame may list more registers. -/
theorem registerFrame_mono {dest' : List Reg} (h : registerFrame s u dest) (hsub : ∀ r ∈ dest, r ∈ dest') :
    registerFrame s u dest' := by
  obtain ⟨hregs, hrest⟩ := h
  exact ⟨fun r h15 hr => hregs r h15 (mt (hsub r) hr), hrest⟩

end

/-! ### Sequences of loads and stores (spec 20 R58) -/

section
variable {s : State} {rs : List Reg} {base : Word} {k n : Nat}

/-- A completed sequence of loads: register `k` gets word `k`, nothing but the listed registers changes. -/
theorem loadRegs_of_wordsReadable (hn : rs.length = n) (hp : s.params.legal) (hr : wordsReadable s base n) (hnodup : rs.Nodup)
    (hlt : ∀ r ∈ rs, r.val < 15) :
    ∃ u, loadRegs rs base s = .ok u ∧ (∀ k r, rs[k]? = some r → u.x r = s.word (wordAddr base k)) ∧
      u.mem = s.mem ∧ u.stepCycles = s.stepCycles ∧ keepsFlags s u ∧ registerFrame s u rs := by
  subst hn
  obtain ⟨u, hu, hx⟩ := loadRegs_ok fun k hk => aligned_and_allMapped hp (hr k hk)
  obtain ⟨heq, hregs⟩ := loadRegs_frame hu
  refine ⟨u, hu, fun k r hkr => ?_, ?_⟩
  · obtain ⟨hk, rfl⟩ := List.getElem?_eq_some_iff.mp hkr
    exact hx hnodup hlt k hk
  · rw [heq] at hregs ⊢
    exact ⟨rfl, rfl, rfl, fun r _ => hregs r, ⟨rfl, rfl, rfl⟩, ⟨rfl, rfl⟩, fun _ => rfl, rfl, rfl, rfl, rfl, rfl, rfl⟩

theorem loadRegs_of_misaligned (hp : s.params.legal) (h0 : 0 < rs.length) (ha : base.toNat % 4 ≠ 0) :
    loadRegs rs base s = .error (.alignmentFault base 4) := by
  refine loadRegs_error h0 nofun ?_
  rw [Nat.mul_zero, BitVec.add_zero]
  exact (memoryReads s base .word hp).1 ha

theorem loadRegs_of_unmapped (hp : s.params.legal) (hk : k < rs.length) (ha : base.toNat % 4 = 0) (hr : wordsReadable s base k)
    (hm : mapped s.params (wordAddr base k).toNat = false) :
    loadRegs rs base s = .error (.memoryFault (wordAddr base k) 4 .read) :=
  loadRegs_error hk (fun j hj => aligned_and_allMapped hp (hr j hj))
    ((memoryReads s _ .word hp).2.1 ((wordAddr_toNat_mod_four base k).trans ha) hm)

/-- A completed sequence of stores: word `k` is register `k`, nothing but the bytes of the words changes. -/
theorem storeRegs_of_wordsWritable (hn : rs.length = n) (hlen : 4 * n < 2 ^ 32) (hp : s.params.legal) (hm : s.mem.wf)
    (hw : wordsWritable s base n) :
    ∃ u, storeRegs rs base s = .ok u ∧ (∀ k r, rs[k]? = some r → u.word (wordAddr base k) = s.x r) ∧
      storeFrame s u [] base (4 * n) := by
  subst hn
  obtain ⟨u, hu⟩ := storeRegs_ok fun k hk => aligned_and_allData hp (hw k hk)
  obtain ⟨heq, -, -, hout⟩ := storeRegs_frame hu
  refine ⟨u, hu, fun k r hkr => ?_, ?_⟩
  · obtain ⟨hk, rfl⟩ := List.getElem?_eq_some_iff.mp hkr
    exact Memory.load_word_eq fun j hj => storeRegs_stored hu hm hlen hk hj
  · have hbytes : keepsBytesExcept s u base (4 * rs.length) := by
      refine fun a ha => hout hm a fun k hk j hj => ?_
      rw [byteAddr_add]
      exact ha _ (by omega)
    rw [heq] at hbytes ⊢
    exact ⟨fun _ _ _ => rfl, rfl, ⟨rfl, rfl, rfl⟩, ⟨rfl, rfl⟩, hbytes, rfl, rfl, rfl, rfl, rfl, rfl⟩

theorem storeRegs_of_misaligned (hp : s.params.legal) (hm : s.mem.wf) (h0 : 0 < rs.length) (ha : base.toNat % 4 ≠ 0) :
    storeRegs rs base s = .error (.alignmentFault base 4) := by
  refine storeRegs_error h0 nofun fun v => ?_
  rw [Nat.mul_zero, BitVec.add_zero]
  exact (memoryWrites s base .word v hp hm).1 ha

theorem storeRegs_of_unmapped (hp : s.params.legal) (hm : s.mem.wf) (hk : k < rs.length) (ha : base.toNat % 4 = 0)
    (hw : wordsWritable s base k) (hd : inData s.params (wordAddr base k).toNat = false) :
    storeRegs rs base s = .error (.memoryFault (wordAddr base k) 4 .write) :=
  storeRegs_error hk (fun j hj => aligned_and_allData hp (hw j hj))
    fun v => (memoryWrites s _ .word v hp hm).2.1 ((wordAddr_toNat_mod_four base k).trans ha) hd

end

/-! ### STM (spec 44 R155) -/

section
variable {s : State} {rn : LowReg} {list : BitVec 8}

theorem exec_stm_eq : exec (.stm rn list) s = orFault (storeRegs (listRegs list) (s.x (lo rn)) s) fun u =>
    .next ((u.setX (lo rn) (wordAddr (s.x (lo rn)) (bitCount list))).cost (.multiple (bitCount list))) := by
  rw [← length_listRegs]; rfl

end

/-- Settles O26: STM is a sequence of stores, then a write of Rn. -/
theorem storeMultiple : Obligations.StoreMultiple := by
  rintro s rn list base hp hm rfl
  refine ⟨fun hlist hlow => encodes16_of_imm8 _ rn list rfl (stm_wellFormed hlist hlow), ?empty, fun j hn hj hlt => ?notLowest,
    fun hw => ?completes, fun hlist ha => ?misaligned, fun k hk ha hw hd => ?unmapped⟩
  case empty =>
    rintro rfl
    exact refusedWord_stm rfl
  case notLowest => exact refusedWord_stm (by simp [Instr.wellFormed, hn, isLowest_eq_false hj hlt])
  case completes =>
    have hle := bitCount_le (list := list)
    obtain ⟨u, hu, hstored, hframe⟩ := storeRegs_of_wordsWritable (length_listRegs list) (by omega) hp hm hw
    rw [runs, exec_stm_eq, hu]
    exact ⟨_, rfl, fun i hi => hstored _ _ (getElem?_listRegs_placeIn hi), State.x_setX_same u _ _ (lo_lt rn), rfl,
      storeFrame_setX_cost hframe (lo rn) _ _⟩
  case misaligned => rw [exec_stm_eq, storeRegs_of_misaligned hp hm (length_listRegs_pos hlist) ha, orFault_error]
  case unmapped => rw [exec_stm_eq, storeRegs_of_unmapped hp hm (by rwa [length_listRegs]) ha hw hd, orFault_error]

/-! ### LDM (spec 44 R156) -/

section
variable {s u : State} {rn : LowReg} {list : BitVec 8} {base : Word}

/-- A completed sequence of loads into the registers of a list field. -/
theorem loadRegs_listRegs (hp : s.params.legal) (hr : wordsReadable s base (bitCount list)) :
    ∃ u, loadRegs (listRegs list) base s = .ok u ∧ listLoaded s u list base ∧ u.mem = s.mem ∧ keepsFlags s u ∧
      registerFrame s u (maskRegs list) := by
  obtain ⟨u, hu, hx, hmem, -, hflags, hframe⟩ :=
    loadRegs_of_wordsReadable (length_listRegs list) hp hr (listRegs_nodup list) (listRegs_lt list)
  exact ⟨u, hu, fun i hi => hx _ _ (getElem?_listRegs_placeIn hi), hmem, hflags,
    registerFrame_mono hframe fun r => mem_maskRegs.mpr⟩

/-- A write of a register outside the list, and the cost, leave the loaded registers alone. -/
theorem listLoaded_setX_cost (h : listLoaded s u list base) {r : Reg} (hr : r ∉ listRegs list) (v : Word) (c : CycleClass) :
    listLoaded s ((u.setX r v).cost c) list base := by
  intro i hi
  have hne : lo i ≠ r := fun heq => hr ((mem_listRegs list r).mpr ⟨i, hi, heq.symm⟩)
  rw [State.cost_x, State.x_setX_of_ne _ _ _ _ hne, h i hi]

theorem lo_notMem_listRegs (h : list.getLsbD rn.val = false) : lo rn ∉ listRegs list := by
  intro hmem
  obtain ⟨i, hi, heq⟩ := (mem_listRegs list _).mp hmem
  rw [(lo_inj rn i).mp heq, hi] at h
  cases h

theorem exec_ldm_eq : exec (.ldm rn list) s = orFault (loadRegs (listRegs list) (s.x (lo rn)) s) fun u =>
    .next ((if list.getLsbD rn.val then u else u.setX (lo rn) (wordAddr (s.x (lo rn)) (bitCount list))).cost
      (.multiple (bitCount list))) := by
  rw [← length_listRegs]; rfl

end

/-- Settles O27: LDM is a sequence of loads, then a write of Rn when it is not one of them. -/
theorem loadMultiple : Obligations.LoadMultiple := by
  rintro s rn list base hp rfl
  refine ⟨fun hlist => encodes16_of_imm8 _ rn list rfl (bne_iff_ne.mpr hlist), ?empty, fun hr => ?completes,
    fun hlist ha => ?misaligned, fun k hk ha hr hm => ?unmapped⟩
  case empty =>
    rintro rfl
    exact refusedWord_ldm rn
  case completes =>
    obtain ⟨u, hu, hloaded, -, hflags, hframe⟩ := loadRegs_listRegs hp hr
    rw [runs, exec_ldm_eq, hu]
    cases hrn : list.getLsbD rn.val with
    | false =>
      exact ⟨_, rfl, listLoaded_setX_cost hloaded (lo_notMem_listRegs hrn) _ _, fun _ => State.x_setX_same u _ _ (lo_lt rn),
        keepsFlags_setX_cost hflags _ _ _, rfl, registerFrame_setX_cost hframe (lo rn) _ _⟩
    | true =>
      exact ⟨_, rfl, hloaded, nofun, hflags, rfl, registerFrame_mono (u := u.cost _) hframe fun r => List.mem_cons_of_mem _⟩
  case misaligned => rw [exec_ldm_eq, loadRegs_of_misaligned hp (length_listRegs_pos hlist) ha, orFault_error]
  case unmapped => rw [exec_ldm_eq, loadRegs_of_unmapped hp (by rwa [length_listRegs]) ha hr hm, orFault_error]


/-! ### PUSH (spec 44 R157, 70 R256) -/

section
variable {s : State} {m : Bool} {list : BitVec 8} {base : Word}

theorem getElem?_pushRegs_placeIn {i : LowReg} (hi : list.getLsbD i.val = true) :
    (pushRegs m list)[placeIn list i.val]? = some (lo i) := by
  have hget := getElem?_listRegs_placeIn hi
  rw [pushRegs, List.getElem?_append_left (List.getElem?_eq_some_iff.mp hget).1, hget]

/-- LR is the last register PUSH stores. -/
theorem getElem?_pushRegs_lr : (pushRegs true list)[bitCount list]? = some lr := by
  rw [pushRegs, ← length_listRegs, List.getElem?_append_right le_rfl, Nat.sub_self]
  rfl

theorem exec_push_eq (hbase : base = s.x 13 - BitVec.ofNat 32 (4 * (bitCount list + m.toNat))) :
    exec (.push m list) s = orFault (storeRegs (pushRegs m list) base s) fun u =>
      if pushFaultsAtZero s then .fault (.memoryFault base 4 .write)
      else .next ((u.setX 13 base).cost (.multiple (bitCount list + m.toNat))) := by
  rw [hbase, ← length_pushRegs]; rfl

/-- The base of a PUSH is aligned as SP is. -/
theorem pushBase_toNat_mod_four {n : Nat} (hbase : base = s.x 13 - BitVec.ofNat 32 (4 * n)) :
    base.toNat % 4 = (s.x 13).toNat % 4 := by
  rw [hbase, BitVec.toNat_sub, BitVec.toNat_ofNat]; omega

/-- Where the words of a PUSH at SP = 0 can all be written, the data region ends at 2^32. -/
theorem le_ramEnd_of_push_at_zero {n : Nat} (hp : s.params.legal) (hn : n ≠ 0) (hlen : 4 * n < 2 ^ 32)
    (hbase : base = 0#32 - BitVec.ofNat 32 (4 * n)) (hw : wordsWritable s base n) :
    2 ^ 32 ≤ Config.ramBase + s.params.ramSize := by
  obtain ⟨-, hlast⟩ := hw (n - 1) (by omega)
  have haddr : (wordAddr base (n - 1)).toNat = 2 ^ 32 - 4 := by
    rw [hbase, BitVec.toNat_add, BitVec.toNat_sub, BitVec.toNat_ofNat, BitVec.toNat_ofNat, BitVec.toNat_ofNat]; omega
  obtain ⟨-, -, -, -, hmul, -⟩ := hp
  rw [haddr, inData_iff] at hlast
  rw [Config.ramBase]
  omega

/-- A PUSH whose words can be written stores them, and then it faults at SP = 0 or writes SP. -/
theorem exec_push_of_wordsWritable (hp : s.params.legal) (hm : s.mem.wf)
    (hbase : base = s.x 13 - BitVec.ofNat 32 (4 * (bitCount list + m.toNat)))
    (hw : wordsWritable s base (bitCount list + m.toNat)) :
    ∃ u, (∀ k r, (pushRegs m list)[k]? = some r → u.word (wordAddr base k) = s.x r) ∧
      storeFrame s u [] base (4 * (bitCount list + m.toNat)) ∧
      exec (.push m list) s = if pushFaultsAtZero s then .fault (.memoryFault base 4 .write)
        else .next ((u.setX 13 base).cost (.multiple (bitCount list + m.toNat))) := by
  have hle := bitCount_add_toNat_le (list := list) m
  obtain ⟨u, hu, hstored, hframe⟩ := storeRegs_of_wordsWritable (length_pushRegs m) (by omega) hp hm hw
  exact ⟨u, hstored, hframe, by rw [exec_push_eq hbase, hu, orFault_ok]⟩

/-- A PUSH from an aligned SP faults at its first word outside the data region. -/
theorem exec_push_of_unmapped (hp : s.params.legal) (hm : s.mem.wf)
    (hbase : base = s.x 13 - BitVec.ofNat 32 (4 * (bitCount list + m.toNat))) {k : Nat} (hk : k < bitCount list + m.toNat)
    (ha : (s.x 13).toNat % 4 = 0) (hw : wordsWritable s base k) (hd : inData s.params (wordAddr base k).toNat = false) :
    exec (.push m list) s = .fault (.memoryFault (wordAddr base k) 4 .write) := by
  have ha' := (pushBase_toNat_mod_four hbase).trans ha
  rw [exec_push_eq hbase, storeRegs_of_unmapped hp hm (by rwa [length_pushRegs]) ha' hw hd, orFault_error]

end

/-- Settles O28: PUSH is a sequence of stores below SP, then a write of SP; at SP = 0 its highest word ends at 2^32. -/
theorem pushStoresBelowSp : Obligations.PushStoresBelowSp := by
  rintro s m list n base hp hm rfl hbase
  have hmod := pushBase_toNat_mod_four hbase
  obtain ⟨hword, hempty⟩ := pushPopWord (i := .push m list) 0b1011010#7 m rfl rfl
  refine ⟨hword, hempty, fun hw h0 => ?completes, fun hw h0 hfaults => ?faultsAtZero, fun hn h0 hend => ?atZero,
    fun hn ha => ?misaligned, fun k => exec_push_of_unmapped hp hm hbase⟩
  case completes =>
    obtain ⟨u, hstored, hframe, hexec⟩ := exec_push_of_wordsWritable hp hm hbase hw
    refine ⟨_, hexec.trans (if_neg h0), fun i hi => hstored _ _ (getElem?_pushRegs_placeIn hi), ?_,
      State.x_setX_same u 13 _ sp_lt, rfl, storeFrame_setX_cost hframe 13 _ _⟩
    rintro rfl
    exact hstored _ _ getElem?_pushRegs_lr
  case faultsAtZero =>
    obtain ⟨u, -, -, hexec⟩ := exec_push_of_wordsWritable hp hm hbase hw
    exact hexec.trans (if_pos ⟨h0, hfaults⟩)
  case atZero =>
    have ha : (s.x 13).toNat % 4 = 0 := by rw [h0]; rfl
    obtain hw | ⟨k, hk, hw, hd⟩ := wordsWritable_or_first (s := s) (hmod.trans ha) (bitCount list + m.toNat)
    · have hle := bitCount_add_toNat_le (list := list) m
      have hfull := le_ramEnd_of_push_at_zero hp hn (by omega) (hbase.trans (by rw [h0]; rfl)) hw
      obtain ⟨u, -, -, hexec⟩ := exec_push_of_wordsWritable hp hm hbase hw
      exact ⟨base, hexec.trans (if_pos ⟨h0, hend.resolve_left hfull.not_gt⟩)⟩
    · exact ⟨_, exec_push_of_unmapped hp hm hbase hk ha hw hd⟩
  case misaligned =>
    have h0 : 0 < (pushRegs m list).length := by rw [length_pushRegs]; exact Nat.pos_of_ne_zero hn
    rw [exec_push_eq hbase, storeRegs_of_misaligned hp hm h0 (by rwa [hmod]), orFault_error]

/-! ### The exception return (spec 60 R238) -/

/-- The state after an exception return, from the state `u` in which the first six words of the frame are loaded. -/
def afterReturn (u : State) (frame ret psr : Word) : State :=
  (branchTo ret (((u.setX sp (frame + 32#32)).setFlags (Flags.ofWord psr)).setMode .thread)).charge
    (u.stepCycles + excRetCycles)

section
variable {s u t : State} {frame : Word} {cycles : Nat}

theorem afterReturn_x_sp (ret psr : Word) : (afterReturn u frame ret psr).x 13 = frame + 32#32 := by
  rw [afterReturn, State.charge_x, branchTo_x _ _ _ (by decide), State.setMode_x, State.setFlags_x]
  exact State.x_setX_same u sp _ sp_lt

theorem afterReturn_x_of_ne {r : Reg} (hr : r ≠ 15 ∧ r ≠ 13) (ret psr : Word) : (afterReturn u frame ret psr).x r = u.x r := by
  rw [afterReturn, State.charge_x, branchTo_x _ _ _ (val_lt_of_ne_pc hr.1), State.setMode_x, State.setFlags_x]
  exact State.x_setX_of_ne u sp r _ hr.2

theorem afterReturn_keepsPmPending (hc : keepsControl s u) (ret psr : Word) :
    (afterReturn u frame ret psr).cpu.primask = s.cpu.primask ∧ (afterReturn u frame ret psr).cpu.pending = s.cpu.pending := by
  obtain ⟨hpm, -, hpend⟩ := hc
  exact ⟨(State.setX_cpu_primask ..).trans hpm, (State.setX_cpu_pending ..).trans hpend⟩

/-- A frame that can be read, with bit 24 of its status word set, is returned from. -/
theorem returnResult_exceptionReturn (hp : s.params.legal) (hr : wordsReadable s (s.x 13) 8)
    (hbit : (s.word (wordAddr (s.x 13) 7)).getLsbD 24 = true) :
    ∃ t, exceptionReturn s = .next t ∧ returnResult s [] (s.x 13) (s.stepCycles + 8) t := by
  obtain ⟨u, hu, hx, hmem, hcycles, -, hframe⟩ :=
    loadRegs_of_wordsReadable (rs := frameRegs) (base := s.x 13) rfl hp (fun k hk => hr k (hk.trans (by decide))) (by decide)
      (by decide)
  have hword (k : Nat) (hk : k < 8) : memRead u (wordAddr (s.x 13) k) .word = .ok (s.word (wordAddr (s.x 13) k)) :=
    (memRead_eq_of_registerFrame hmem hframe).trans (memRead_of_readable hp (hr k hk))
  refine ⟨afterReturn u (s.x 13) (s.word (wordAddr (s.x 13) 6)) (s.word (wordAddr (s.x 13) 7)),
    exceptionReturn_eq_next.mpr ⟨u, _, _, hu, hword 6 (by decide), hword 7 (by decide), hbit, rfl⟩, ?_⟩
  obtain ⟨hregs, hcontrol, -, hbytes, hexit, hloop⟩ := hframe
  obtain ⟨hpm, hpend⟩ := afterReturn_keepsPmPending (frame := s.x 13) hcontrol (s.word (wordAddr (s.x 13) 6))
    (s.word (wordAddr (s.x 13) 7))
  have hloaded (k : Nat) (r : Reg) (hk : frameRegs[k]? = some r) (hne : r ≠ 15 ∧ r ≠ 13) (ret psr : Word) :
      (afterReturn u (s.x 13) ret psr).x r = s.word (wordAddr (s.x 13) k) :=
    (afterReturn_x_of_ne hne ret psr).trans (hx k r hk)
  refine ⟨⟨hloaded 0 0 rfl (by decide) _ _, hloaded 1 1 rfl (by decide) _ _, hloaded 2 2 rfl (by decide) _ _,
    hloaded 3 3 rfl (by decide) _ _, hloaded 4 12 rfl (by decide) _ _, hloaded 5 14 rfl (by decide) _ _⟩,
    afterReturn_x_sp _ _, rfl, rfl, ⟨rfl, rfl, rfl, rfl⟩, rfl, hpm, hpend, congrArg (· + 8) hcycles,
    fun r h15 hr => ?regs, hbytes, hexit, hloop⟩
  case regs =>
    have hlisted : r ∉ frameRegs ∧ r ≠ 13 := by
      simp only [List.append_nil, List.mem_cons, not_or] at hr
      simp [frameRegs, hr]
    exact (afterReturn_x_of_ne ⟨h15, hlisted.2⟩ _ _).trans (hregs r h15 hlisted.1)

/-- An exception return from a state that has written SP and some other registers. -/
theorem returnResult_of_registerFrame {others : List Reg} (h : registerFrame s u (13 :: others))
    (ht : returnResult u [] frame cycles t) : returnResult s others frame cycles t := by
  obtain ⟨hregs, ⟨hpm, -, hpend⟩, -, hbytes, hexit, ⟨hscheme, hbattery, henv, hloop, hparams⟩⟩ := h
  obtain ⟨hx, hsp, hpc, hbranch, hflags, hmode, hpm', hpend', hcycles, hregs', hbytes', hexit',
    ⟨hscheme', hbattery', henv', hloop', hparams'⟩⟩ := ht
  simp only [word_eq_of_keepsBytes hbytes] at hx hpc hflags
  refine ⟨hx, hsp, hpc, hbranch, hflags, hmode, hpm'.trans hpm, hpend'.trans hpend, hcycles, fun r h15 hr => ?regs,
    fun a => (hbytes' a).trans (hbytes a), hexit'.trans hexit, hscheme'.trans hscheme, hbattery'.trans hbattery, henv'.trans henv,
    hloop'.trans hloop, hparams'.trans hparams⟩
  case regs =>
    obtain ⟨hframe, hothers⟩ := not_or.mp (mt List.mem_append.mpr hr)
    have h13 : r ≠ 13 := fun h => hframe (by rw [h]; decide)
    exact (hregs' r h15 (by rwa [List.append_nil])).trans (hregs r h15 (List.not_mem_cons_of_ne_of_not_mem h13 hothers))

end

/-! ### POP (spec 44 R158) -/

/-- What POP leaves where it does not branch, and where it branches the state it branches from. -/
abbrev poppedResult (s : State) (list : BitVec 8) (n cycles : Nat) (u : State) : Prop :=
  listLoaded s u list (s.x 13) ∧ u.x 13 = s.x 13 + BitVec.ofNat 32 (4 * n) ∧ keepsFlags s u ∧ u.stepCycles = cycles ∧
    registerFrame s u (13 :: maskRegs list)

section
variable {s u : State} {p : Bool} {list : BitVec 8} {n cycles : Nat}

theorem sp_notMem_listRegs : 13 ∉ listRegs list := by
  intro hmem
  obtain ⟨i, -, heq⟩ := (mem_listRegs list _).mp hmem
  exact lo_ne_sp i heq.symm

/-- After the loads, a write of SP and the cost are all that POP does before it branches. -/
theorem poppedResult_setX_cost (hloaded : listLoaded s u list (s.x 13)) (hflags : keepsFlags s u)
    (hframe : registerFrame s u (maskRegs list)) (n : Nat) (c : CycleClass) :
    poppedResult s list n c.cycles ((u.setX 13 (wordAddr (s.x 13) n)).cost c) :=
  ⟨listLoaded_setX_cost hloaded sp_notMem_listRegs _ c, State.x_setX_same u 13 _ sp_lt, keepsFlags_setX_cost hflags 13 _ c, rfl,
    registerFrame_setX_cost hframe 13 _ c⟩

theorem exec_pop_eq : exec (.pop p list) s = orFault (loadRegs (listRegs list) (s.x 13) s) fun u =>
    if p then
      orFault (memRead u (wordAddr (s.x 13) (bitCount list)) .word) fun target =>
        bxWritePC target ((u.setX 13 (wordAddr (s.x 13) (bitCount list + 1))).cost (.popPc (bitCount list + 1)))
    else .next ((u.setX 13 (wordAddr (s.x 13) (bitCount list))).cost (.multiple (bitCount list))) := by
  rw [← length_listRegs]; rfl

/-- A POP whose words can be read loads the list and raises SP; with PC it branches to its last word. -/
theorem exec_pop_of_wordsReadable (hp : s.params.legal) (hr : wordsReadable s (s.x 13) (bitCount list + p.toNat)) :
    ∃ u, poppedResult s list (bitCount list + p.toNat) (1 + (bitCount list + p.toNat) + p.toNat) u ∧
      exec (.pop p list) s =
        if p then bxWritePC (s.word (wordAddr (s.x 13) (bitCount list))) u else .next u := by
  obtain ⟨u, hu, hloaded, hmem, hflags, hframe⟩ :=
    loadRegs_listRegs (list := list) hp fun k hk => hr k (Nat.lt_add_right _ hk)
  have hpopped := poppedResult_setX_cost hloaded hflags hframe
  rw [exec_pop_eq, hu, orFault_ok]
  cases p with
  | false => exact ⟨_, hpopped _ (.multiple (bitCount list)), rfl⟩
  | true =>
    have htarget : memRead u (wordAddr (s.x 13) (bitCount list)) .word = .ok (s.word (wordAddr (s.x 13) (bitCount list))) :=
      (memRead_eq_of_registerFrame hmem hframe).trans (memRead_of_readable hp (hr _ (Nat.lt_succ_self _)))
    rw [if_pos rfl, htarget]
    exact ⟨_, hpopped _ (.popPc (bitCount list + 1)), rfl⟩

/-- A POP faults as the read of its first unreadable word does, which may be the word for PC. -/
theorem exec_pop_of_memRead_error (hp : s.params.legal) {k : Nat} (hk : k < bitCount list + p.toNat)
    (hr : wordsReadable s (s.x 13) k) {f : Fault} (hf : memRead s (wordAddr (s.x 13) k) .word = .error f) :
    exec (.pop p list) s = .fault f := by
  by_cases hlist : k < bitCount list
  · have hload : loadRegs (listRegs list) (s.x 13) s = .error f :=
      loadRegs_error (by rwa [length_listRegs]) (fun j hj => aligned_and_allMapped hp (hr j hj)) hf
    rw [exec_pop_eq, hload, orFault_error]
  · obtain rfl : p = true := by
      cases p with
      | false => exact absurd hk hlist
      | true => rfl
    obtain rfl : k = bitCount list := Nat.le_antisymm (Nat.le_of_lt_succ hk) (Nat.le_of_not_lt hlist)
    obtain ⟨u, hu, -, hmem, -, hframe⟩ := loadRegs_listRegs hp hr
    rw [exec_pop_eq, hu, orFault_ok, if_pos rfl, memRead_eq_of_registerFrame hmem hframe, hf, orFault_error]

/-- The exception return of a POP, from the raised SP. -/
theorem returnResult_of_poppedResult (hp : s.params.legal) (h : poppedResult s list n cycles u)
    (hr : wordsReadable s (s.x 13 + BitVec.ofNat 32 (4 * n)) 8)
    (hbit : (s.word (wordAddr (s.x 13 + BitVec.ofNat 32 (4 * n)) 7)).getLsbD 24 = true) :
    ∃ t, exceptionReturn u = .next t ∧
      (∀ i : LowReg, 4 ≤ i.val → list.getLsbD i.val = true → t.x (lo i) = s.word (wordAddr (s.x 13) (placeIn list i.val))) ∧
      returnResult s (maskRegs list) (s.x 13 + BitVec.ofNat 32 (4 * n)) (cycles + 8) t := by
  obtain ⟨hloaded, hsp, -, rfl, hframe⟩ := h
  obtain ⟨-, -, -, hbytes, -, -, -, -, -, hparams⟩ := id hframe
  rw [← hsp] at hr hbit ⊢
  rw [← word_eq_of_keepsBytes hbytes] at hbit
  obtain ⟨t, ht, hreturn⟩ := returnResult_exceptionReturn (s := u) (hparams ▸ hp)
    (fun k hk => by rw [readable, hparams]; exact hr k hk) hbit
  refine ⟨t, ht, fun i hi hbit => ?_, returnResult_of_registerFrame hframe hreturn⟩
  obtain ⟨-, -, -, -, -, -, -, -, -, hregs, -⟩ := hreturn
  have hhigh : ∀ i : LowReg, 4 ≤ i.val → lo i ∉ [0, 1, 2, 3, 12, 13, 14] ++ [] := by decide
  exact (hregs (lo i) (lo_ne_pc i) (hhigh i hi)).trans (hloaded i hbit)

theorem addr_eq_of_registerFrame {dest : List Reg} (h : registerFrame s u dest) : u.addr = s.addr := by
  obtain ⟨-, -, ⟨hpc, -⟩, -⟩ := h
  rw [State.addr, hpc, State.addr]

end

/-- Settles O29: POP is a sequence of loads, then a write of SP; with PC, BXWritePC of its last word by its three cases. -/
theorem popLoadsFromSp : Obligations.PopLoadsFromSp := by
  rintro s p list n target hp rfl rfl
  obtain ⟨hword, hempty⟩ := pushPopWord (i := .pop p list) 0b1011110#7 p rfl rfl
  refine ⟨hword, hempty, fun hn ha => ?misaligned, fun k hk ha hr hm => ?unmapped, fun hr => ?readable⟩
  case misaligned =>
    refine exec_pop_of_memRead_error hp (Nat.pos_of_ne_zero hn) nofun ?_
    rw [wordAddr_zero]
    exact (memoryReads s _ .word hp).1 ha
  case unmapped =>
    exact exec_pop_of_memRead_error hp hk hr ((memoryReads s _ .word hp).2.1 ((wordAddr_toNat_mod_four _ k).trans ha) hm)
  case readable =>
    obtain ⟨u, hpopped, hexec⟩ := exec_pop_of_wordsReadable hp hr
    obtain ⟨hloaded, hsp, hflags, hcycles, hframe⟩ := id hpopped
    refine ⟨?plain, ?branch, ?interworking, ?returns, ?exceptionReturn⟩
    case plain =>
      rintro rfl
      exact ⟨u, hexec, hpopped⟩
    case branch =>
      rintro rfl htop hbit
      exact ⟨_, hexec.trans (bxWritePC_of_thumb u htop hbit), fun i hi => (branchTo_x _ u _ (lo_lt i)).trans (hloaded i hi),
        (branchTo_x _ u 13 sp_lt).trans hsp, branchFrame_branchTo hframe hflags _, hcycles⟩
    case interworking =>
      rintro rfl htop hbit
      rw [← addr_eq_of_registerFrame hframe]
      exact hexec.trans (bxWritePC_of_notThumb u htop hbit)
    case returns =>
      rintro rfl htop hr8 hbit
      obtain ⟨t, ht, hresult⟩ := returnResult_of_poppedResult hp hpopped hr8 hbit
      exact ⟨t, hexec.trans ((bxWritePC_of_excReturn u htop).trans ht), hresult⟩
    case exceptionReturn =>
      rintro rfl htop
      exact ⟨u, hexec.trans (bxWritePC_of_excReturn u htop), hpopped⟩

/-! ### PUSH, then POP (spec 44 R157, R158) -/

section
variable {s t u : State} {m : Bool} {list : BitVec 8} {base : Word}

/-- The words of a PUSH that completes can all be written, and it is not a PUSH at SP = 0 that faults. -/
theorem wordsWritable_of_exec_push (hp : s.params.legal) (hm : s.mem.wf)
    (hbase : base = s.x 13 - BitVec.ofNat 32 (4 * (bitCount list + m.toNat))) (h : exec (.push m list) s = .next t) :
    wordsWritable s base (bitCount list + m.toNat) ∧ ¬pushFaultsAtZero s := by
  obtain ⟨-, -, -, hzero, -, hmisaligned, hunmapped⟩ := pushStoresBelowSp s m list _ base hp hm rfl hbase
  have hw : wordsWritable s base (bitCount list + m.toNat) := by
    by_cases ha : (s.x 13).toNat % 4 = 0
    · obtain hw | ⟨k, hk, hw, hd⟩ := wordsWritable_or_first ((pushBase_toNat_mod_four hbase).trans ha) (bitCount list + m.toNat)
      · exact hw
      · cases (hunmapped k hk ha hw hd).symm.trans h
    · by_cases hn : bitCount list + m.toNat = 0
      · rw [hn]; nofun
      · cases (hmisaligned hn ha).symm.trans h
  refine ⟨hw, fun ⟨h0, hfaults⟩ => ?_⟩
  cases (hzero hw h0 hfaults).symm.trans h

/-- A list stored and then loaded from one place, with SP back where it was, gives every register its value back. -/
theorem x_eq_of_listStored_of_listLoaded (hstored : listStored s t list base) (hkept : keepsRegs s t [13])
    (hloaded : listLoaded t u list base) (hkept' : keepsRegs t u (13 :: maskRegs list)) (hsp : u.x 13 = s.x 13) {r : Reg}
    (h15 : r ≠ 15) : u.x r = s.x r := by
  by_cases h13 : r = 13
  · rw [h13, hsp]
  · by_cases hlist : r ∈ listRegs list
    · obtain ⟨i, hi, rfl⟩ := (mem_listRegs list r).mp hlist
      exact (hloaded i hi).trans (hstored i hi)
    · have hout := List.not_mem_cons_of_ne_of_not_mem h13 (mt mem_maskRegs.mp hlist)
      exact (hkept' r h15 hout).trans (hkept r h15 (List.not_mem_cons_of_ne_of_not_mem h13 List.not_mem_nil))

end

/-- Settles O30: each word POP loads is the one PUSH stored for its register, and SP goes back up. -/
theorem pushThenPop : Obligations.PushThenPop := by
  intro s t m list hp hm hpush hlr
  obtain ⟨hw, h0⟩ := wordsWritable_of_exec_push hp hm rfl hpush
  obtain ⟨-, -, hpushed, -⟩ := pushStoresBelowSp s m list _ _ hp hm rfl rfl
  obtain ⟨t', ht', hstored, hstoredLr, hsp, -, hregs, hflags, ⟨hpm, hmode, hpend⟩, ⟨hpc, hbranch⟩, -, -, -, -, -, -, hparams⟩ :=
    hpushed hw h0
  obtain rfl : t = t' := Host.Outcome.next.inj (hpush.symm.trans ht')
  rw [← hsp] at hstored hstoredLr hw
  obtain ⟨-, -, -, -, hpop⟩ := popLoadsFromSp t m list _ _ (hparams ▸ hp) rfl rfl
  obtain ⟨hplain, hthumb, -⟩ := hpop fun k hk => ⟨(hw k hk).1, hparams ▸ mapped_of_inData (hw k hk).2⟩
  have hback : t.x 13 + BitVec.ofNat 32 (4 * (bitCount list + m.toNat)) = s.x 13 := by rw [hsp, BitVec.sub_add_cancel]
  rw [hback] at hplain hthumb
  cases m with
  | false =>
    obtain ⟨u, hu, hloaded, hraised, hflags', -, hkept, ⟨hpm', hmode', hpend'⟩, ⟨hpc', hbranch'⟩, -⟩ := hplain rfl
    exact ⟨u, hu, fun _ => x_eq_of_listStored_of_listLoaded hstored hregs hloaded hkept hraised, nofun,
      fun _ => ⟨hbranch'.trans hbranch, hpc'.trans hpc⟩, hflags'.trans hflags,
      hpm'.trans hpm, hmode'.trans hmode, hpend'.trans hpend⟩
  | true =>
    obtain ⟨htop, hbit⟩ := hlr rfl
    rw [hstoredLr rfl] at hthumb
    obtain ⟨u, hu, hloaded, hraised, ⟨hpc', hbranch', hkept, hflags', ⟨hpm', hmode', hpend'⟩, -⟩, -⟩ := hthumb rfl htop hbit
    exact ⟨u, hu, fun _ => x_eq_of_listStored_of_listLoaded hstored hregs hloaded hkept hraised,
      fun _ => ⟨hbranch', hpc'.trans (clearBit0_or_one hbit)⟩, nofun, hflags'.trans hflags,
      hpm'.trans hpm, hmode'.trans hmode, hpend'.trans hpend⟩

end Sys2Proof.Machine
end

section
/-! PROOFS. The branches with an offset (spec 45 R159 to R161). -/

namespace Sys2Proof.Machine

/-! ### The offsets as integers (spec 00 R12, 30 R69, R70) -/

/-- The offset of B<c> and B is twice the signed value of its field. -/
theorem branchOffset_eq_ofInt {n : Nat} (imm : BitVec n) : branchOffset imm = BitVec.ofInt 32 (2 * imm.toInt) :=
  congrArg (BitVec.ofInt 32) BitVec.toInt_append_zero

/-- I1 and I2 say whether J1 and J2 equal the sign bit. -/
theorem toNat_not_xor (j s : BitVec 1) : (~~~(j ^^^ s)).toNat = if j = s then 1 else 0 := by
  decide +revert

theorem toInt_signBit (s : BitVec 1) : s.toInt = -s.toNat := by
  decide +revert

/-- The offset of BL is that of a branch with a 24-bit field: S counts negatively, every other field by its place. -/
theorem blOffset_eq_ofInt (s : BitVec 1) (imm10 : BitVec 10) (j1 j2 : BitVec 1) (imm11 : BitVec 11) :
    blOffset s imm10 j1 j2 imm11 = BitVec.ofInt 32 (-(2 : Int) ^ 24 * s.toNat + (if j1 = s then 2 ^ 23 else 0) +
      (if j2 = s then 2 ^ 22 else 0) + 2 ^ 12 * imm10.toNat + 2 * imm11.toNat) := by
  refine (branchOffset_eq_ofInt (s ++ ~~~(j1 ^^^ s) ++ ~~~(j2 ^^^ s) ++ imm10 ++ imm11)).trans (congrArg (BitVec.ofInt 32) ?_)
  simp only [BitVec.toInt_append, toInt_signBit, toNat_not_xor]
  simp only [Nat.reduceAdd, Nat.reduceBEq, Bool.false_eq_true, if_false]
  split <;> split <;> omega

/-! ### The words (spec 30 R67, R72) -/

theorem condField_toNat (cond : Cond) : (condField cond).toNat = cond.toNat := by cases cond <;> rfl

theorem encodes16_bCond (cond : Cond) (imm8 : BitVec 8) : encodes16 (0b1101#4 ++ condField cond ++ imm8) (.bCond cond imm8) := by
  refine decode_eq_ok_of_encode_eq (enc16_eq ?_) rfl
  simp only [toNat_append_eq_add, condField_toNat, BitVec.toNat_ofNat]; omega

theorem encodes16_b (imm11 : BitVec 11) : encodes16 (0b11100#5 ++ imm11) (.b imm11) :=
  decode_eq_ok_of_encode_eq (enc16_eq (toNat_append_eq_add 0b11100#5 imm11)) rfl

theorem encodes32_bl (s : BitVec 1) (imm10 : BitVec 10) (j1 j2 : BitVec 1) (imm11 : BitVec 11) :
    encodes32 (0b11110#5 ++ s ++ imm10) (0b11#2 ++ j1 ++ 0b1#1 ++ j2 ++ imm11) (.bl s imm10 j1 j2 imm11) := by
  refine decode_eq_ok_of_encode_eq (enc32_eq ?_ ?_) rfl <;> simp only [toNat_append_eq_add, BitVec.toNat_ofNat] <;> omega

/-- Settles O31: a taken branch is `branchTo` of the PC read value plus the offset as an integer; BL writes LR before it. -/
theorem branchesToSignedOffset : Obligations.BranchesToSignedOffset := by
  intro s cond imm8 imm11 sb j1 j2 imm10
  rw [← branchOffset_eq_ofInt, ← branchOffset_eq_ofInt, ← blOffset_eq_ofInt]
  refine ⟨⟨encodes16_bCond cond imm8, fun hpass => ?taken, fun hfail => ?notTaken⟩, ⟨encodes16_b imm11, ?b⟩,
    encodes32_bl sb imm10 j1 j2 imm11, ?bl⟩
  case taken => exact ⟨_, if_pos hpass, branchFrame_branchTo registerFrame_refl rfl _, rfl⟩
  case notTaken => exact ⟨_, if_neg (Bool.eq_false_iff.mp hfail), rfl, rfl, registerFrame_refl⟩
  case b => exact ⟨_, rfl, branchFrame_branchTo registerFrame_refl rfl _, rfl⟩
  case bl =>
    exact ⟨_, rfl, State.x_setX_same s lr _ lr_lt,
      branchFrame_branchTo (registerFrame_setX lr _) (State.setX_cpu_flags ..) _, rfl⟩

end Sys2Proof.Machine
end

section
/-! PROOFS. PC and SP arithmetic, extend, reverse, the exit sentinel and NOP (spec 46 R164 to R176): their words, the values they write,
and what the tail `writePlain` leaves. -/

namespace Sys2Proof.Machine

/-! ### A result written without flags -/

section
variable (s : State)

/-- What `writePlain` leaves, for every register that is stored. -/
theorem plainResult_writePlain {d : Reg} (hd : d ≠ 15) (v : Word) (c : CycleClass) :
    ∃ t, writePlain d v c s = .next t ∧ plainResult s d v c.cycles t :=
  ⟨_, rfl, State.x_setX_same s d v (val_lt_of_ne_pc hd), State.setX_cpu_flags s d v, rfl, registerFrame_setX d v⟩

theorem plainResult_writePlain_lo (rd : LowReg) (v : Word) :
    ∃ t, writePlain (lo rd) v .alu s = .next t ∧ plainResult s (lo rd) v 1 t :=
  plainResult_writePlain s (lo_ne_pc rd) v .alu

/-- The same with the value named by the register it is in. -/
theorem readBack_writePlain_lo (rd : LowReg) (v : Word) :
    ∃ t, writePlain (lo rd) v .alu s = .next t ∧ t.x (lo rd) = v ∧ plainResult s (lo rd) (t.x (lo rd)) 1 t :=
  (plainResult_writePlain_lo s rd v).imp fun _ ⟨ht, hx, hrest⟩ => ⟨ht, hx, rfl, hrest⟩

end

/-! ### PC and SP arithmetic (spec 46 R164 to R167) -/

/-- A word of nine fixed bits and a 7-bit field, by what its instruction encodes to. -/
theorem encodes16_of_imm7 {i : Instr} (op : BitVec 9) (imm7 : BitVec 7) (h : encode i = enc16 (op.toNat * 2 ^ 7 + imm7.toNat))
    (hi : i.WellFormed) : encodes16 (op ++ imm7) i :=
  decode_eq_ok_of_encode_eq (h.trans (enc16_eq (toNat_append_eq_add op imm7))) hi

/-- Settles O34: the four rows share their tail `writePlain`; the scaled immediates and `Align` are taken as numbers. -/
theorem pcSpArithmetic : Obligations.PcSpArithmetic := by
  intro s rd imm8 imm7
  rw [← align4_eq_ofNat, ← wordScaled_eq_ofNat imm8, ← wordScaled_eq_ofNat imm7]
  exact ⟨⟨encodes16_of_imm8 _ rd imm8 rfl rfl, plainResult_writePlain_lo s rd _⟩,
    ⟨encodes16_of_imm8 _ rd imm8 rfl rfl, plainResult_writePlain_lo s rd _⟩,
    ⟨encodes16_of_imm7 _ imm7 rfl rfl, plainResult_writePlain s (d := sp) (by decide) _ .alu⟩,
    ⟨encodes16_of_imm7 _ imm7 rfl rfl, plainResult_writePlain s (d := sp) (by decide) _ .alu⟩⟩

/-! ### Extend and reverse (spec 46 R168 to R174) -/

section
variable (v : Word)

theorem sext_low_eq_ofInt (n : Nat) : sext (v.extractLsb' 0 n) = BitVec.ofInt 32 (BitVec.ofNat n v.toNat).toInt := by
  rw [sext, BitVec.extractLsb', Nat.shiftRight_zero, BitVec.signExtend]

theorem zext_low_eq_ofNat (n : Nat) : zext (v.extractLsb' 0 n) = BitVec.ofNat 32 (v.toNat % 2 ^ n) := by
  rw [zext_eq_ofNat, BitVec.extractLsb'_toNat, Nat.shiftRight_zero]

/-- In a word put together from bytes of another, byte `k` is the one that was put there. -/
theorem extractLsb'_append_byteOf (place : Nat → Nat) : ∀ k < 4,
    (byteOf v (place 3) ++ byteOf v (place 2) ++ byteOf v (place 1) ++ byteOf v (place 0)).extractLsb' (8 * k) 8 =
      v.extractLsb' (8 * place k) 8 := by
  intro k hk
  change _ = byteOf v (place k)
  rw [extractLsb'_eq_iff]
  simp only [toNat_append_eq_add, field]
  interval_cases k <;> omega

theorem extractLsb'_reverseBytes : ∀ k < 4, (reverseBytes v).extractLsb' (8 * k) 8 = v.extractLsb' (8 * (3 - k)) 8 := by
  have hbytes := extractLsb'_append_byteOf v fun k => 3 - k
  exact hbytes

theorem extractLsb'_reverseInHalves : ∀ k < 4, (reverseInHalves v).extractLsb' (8 * k) 8 =
    v.extractLsb' (8 * (if k % 2 = 0 then k + 1 else k - 1)) 8 := by
  have hbytes := extractLsb'_append_byteOf v fun k => if k % 2 = 0 then k + 1 else k - 1
  exact hbytes

theorem toInt_reverseLowHalf : (reverseLowHalf v).toInt = (v.extractLsb' 0 8 ++ v.extractLsb' 8 8).toInt :=
  BitVec.toInt_signExtend_of_le (by decide)

end

/-- Settles O35: the seven rows share their tail `writePlain`; the extensions are taken as numbers and the reversals byte by byte. -/
theorem extendReverse : Obligations.ExtendReverse := by
  intro s rd rm
  rw [← sext_low_eq_ofInt, ← sext_low_eq_ofInt, ← zext_low_eq_ofNat, ← zext_low_eq_ofNat]
  refine ⟨⟨encodes16_of_encode_eq _ rd rm rfl rfl, plainResult_writePlain_lo s rd _⟩,
    ⟨encodes16_of_encode_eq _ rd rm rfl rfl, plainResult_writePlain_lo s rd _⟩,
    ⟨encodes16_of_encode_eq _ rd rm rfl rfl, plainResult_writePlain_lo s rd _⟩,
    ⟨encodes16_of_encode_eq _ rd rm rfl rfl, plainResult_writePlain_lo s rd _⟩,
    ⟨encodes16_of_encode_eq _ rd rm rfl rfl, ?rev⟩,
    ⟨encodes16_of_encode_eq _ rd rm rfl rfl, ?rev16⟩,
    ⟨encodes16_of_encode_eq _ rd rm rfl rfl, ?revsh⟩⟩
  case rev =>
    obtain ⟨t, ht, hx, hplain⟩ := readBack_writePlain_lo s rd (reverseBytes (s.x (lo rm)))
    exact ⟨t, ht, hx ▸ extractLsb'_reverseBytes _, hplain⟩
  case rev16 =>
    obtain ⟨t, ht, hx, hplain⟩ := readBack_writePlain_lo s rd (reverseInHalves (s.x (lo rm)))
    exact ⟨t, ht, hx ▸ extractLsb'_reverseInHalves _, hplain⟩
  case revsh =>
    obtain ⟨t, ht, hx, hplain⟩ := readBack_writePlain_lo s rd (reverseLowHalf (s.x (lo rm)))
    exact ⟨t, ht, hx ▸ toInt_reverseLowHalf _, hplain⟩

/-! ### The exit sentinel and NOP (spec 46 R175, R176, 30 R80) -/

/-- A word of eight fixed bits and an 8-bit field, by what its instruction encodes to. -/
theorem encode_eq_of_op8 {i : Instr} (op imm8 : BitVec 8) (h : encode i = enc16 (op.toNat * 2 ^ 8 + imm8.toNat)) :
    encode i = (op ++ imm8, none) :=
  h.trans (enc16_eq (toNat_append_eq_add op imm8))

theorem encodes16_bkpt (imm8 : BitVec 8) : encodes16 (0b10111110#8 ++ imm8) (.bkpt imm8) :=
  decode_eq_ok_of_encode_eq (encode_eq_of_op8 _ imm8 rfl) rfl

/-- Every word of the exit sentinel is BKPT of its low byte. -/
theorem encodes16_of_isExitWord {hw1 : Half} (h : isExitWord hw1 = true) : encodes16 hw1 (.bkpt (hw1.extractLsb' 0 8)) := by
  have htop : hw1.extractLsb' 8 8 = 0b10111110#8 := extractLsb'_eq_iff.mpr (isExitWord_iff.mp h)
  have hword := encodes16_bkpt (hw1.extractLsb' 0 8)
  rwa [← htop, BitVec.extractLsb'_append_extractLsb'] at hword

theorem nopResult_cost (s : State) (c : CycleClass) : nopResult s c.cycles (s.cost c) := ⟨rfl, rfl, registerFrame_refl⟩

/-- Settles O36: BKPT has the tag EXIT and is not advanced past, NOP is advanced by its width. -/
theorem exitAndNop : Obligations.ExitAndNop := by
  intro s imm8
  have hnop : encodes16 0xBF00#16 .nop := decode_eq_ok_of_encode_eq rfl rfl
  refine ⟨⟨encodes16_bkpt imm8, fun hw1 h => ⟨_, encodes16_of_isExitWord (beq_iff_eq.mpr h)⟩, ?bkpt, fun hs hf => ?bkptStep⟩,
    hnop, ⟨_, rfl, nopResult_cost s .hint⟩, fun hs hf => ?nopStep⟩
  case bkpt =>
    exact ⟨_, rfl, rfl, rfl, fun _ _ _ => rfl, rfl, ⟨rfl, rfl, rfl⟩, ⟨rfl, rfl⟩, fun _ => rfl, rfl, rfl, rfl, rfl, rfl⟩
  case bkptStep =>
    rw [cpuStep_of_decode hs hf (encodes16_bkpt imm8), runInstr_of_next rfl, advance_of_exit ⟨imm8, rfl⟩]
    exact ⟨_, rfl, rfl, rfl, rfl⟩
  case nopStep =>
    rw [cpuStep_of_decode hs hf hnop, runInstr_of_next rfl, advance_of_plain (by simp) rfl, ofNat_len_of_decode hf hnop]
    exact ⟨_, rfl, rfl, rfl, rfl⟩

end Sys2Proof.Machine
end

section
/-! PROOFS. Hints, barriers, CPS, MRS and MSR, and the rows that are always refused (spec 46 R177 to R190). -/

namespace Sys2Proof.Machine

/-! ### The refusal, and the admission of a SYSTEM_EXT row (spec 30 R79, 40 R93) -/

section
variable {s : State} {i : Instr} {hw1 : Half} {hw2 : Option Half}

theorem raiseMalformed_of_encode (h : encode i = (hw1, hw2)) :
    raiseMalformed i s = .fault (.malformedInstruction s.addr hw1 hw2) := by
  rw [raiseMalformed, h]

theorem whenSystemExt_of_ext (hext : s.params.systemExt = true) (k : Result) : whenSystemExt i s k = k := if_pos hext

theorem whenSystemExt_of_noExt (hext : s.params.systemExt = false) (h : encode i = (hw1, hw2)) (k : Result) :
    whenSystemExt i s k = .fault (.malformedInstruction s.addr hw1 hw2) := by
  rw [whenSystemExt, if_neg (Bool.eq_false_iff.mp hext), raiseMalformed_of_encode h]

theorem nopResult_whenSystemExt (hext : s.params.systemExt = true) (i : Instr) (c : CycleClass) :
    ∃ t, whenSystemExt i s (.next (s.cost c)) = .next t ∧ nopResult s c.cycles t :=
  ⟨_, whenSystemExt_of_ext hext _, nopResult_cost s c⟩

end

/-- Settles O40: the five rows raise the condition with the words they encode to. -/
theorem alwaysRefused : Obligations.AlwaysRefused := by
  intro s imm8 imm4 imm12
  have hsvc : encode (.svc imm8) = (0b11011111#8 ++ imm8, none) := encode_eq_of_op8 _ imm8 rfl
  have hudf : encode (.udf imm8) = (0b11011110#8 ++ imm8, none) := encode_eq_of_op8 _ imm8 rfl
  have hudfW : encode (.udfW imm4 imm12) = (0b111101111111#12 ++ imm4, some (0b1010#4 ++ imm12)) :=
    enc32_eq (toNat_append_eq_add _ imm4) (toNat_append_eq_add _ imm12)
  exact ⟨⟨decode_eq_ok_of_encode_eq rfl rfl, raiseMalformed_of_encode rfl⟩,
    ⟨decode_eq_ok_of_encode_eq rfl rfl, raiseMalformed_of_encode rfl⟩,
    ⟨decode_eq_ok_of_encode_eq hsvc rfl, raiseMalformed_of_encode hsvc⟩,
    ⟨decode_eq_ok_of_encode_eq hudf rfl, raiseMalformed_of_encode hudf⟩,
    ⟨decode_eq_ok_of_encode_eq hudfW rfl, raiseMalformed_of_encode hudfW⟩⟩

/-! ### Hints, barriers, CPS (spec 46 R177, R180 to R182, R185 to R187) -/

/-- PM gets a value, nothing else changes. -/
abbrev primaskResult (s : State) (b : Bool) (cycles : Nat) (t : State) : Prop :=
  t.cpu.primask = b ∧ t.cpu.mode = s.cpu.mode ∧ t.cpu.pending = s.cpu.pending ∧ t.stepCycles = cycles ∧ keepsRegs s t [] ∧
    keepsFlags s t ∧ keepsPc s t ∧ keepsBytes s t ∧ t.exitFlag = s.exitFlag ∧ keepsLoop s t

theorem primaskResult_setPrimask_cost (s : State) (b : Bool) (c : CycleClass) :
    primaskResult s b c.cycles ((s.setPrimask b).cost c) :=
  ⟨rfl, rfl, rfl, rfl, fun _ _ _ => rfl, rfl, ⟨rfl, rfl⟩, fun _ => rfl, rfl, rfl, rfl, rfl, rfl, rfl⟩

/-- Settles O37: the seven rows are admitted by `whenSystemExt`; what they do then is the cost alone, or PM and the cost. -/
theorem hintsBarriersCps : Obligations.HintsBarriersCps := by
  intro s
  refine ⟨?words, fun op _ _ => refusedWord_barrier op, fun hext => ?admitted, fun hext => ?refused⟩
  case words => and_intros <;> exact decode_eq_ok_of_encode_eq rfl rfl
  case admitted =>
    refine ⟨nopResult_whenSystemExt hext .yield .hint, nopResult_whenSystemExt hext .sev .hint,
      nopResult_whenSystemExt hext .dsb .system, nopResult_whenSystemExt hext .dmb .system,
      nopResult_whenSystemExt hext .isb .system, ?_⟩
    rintro i b (⟨rfl, rfl⟩ | ⟨rfl, rfl⟩)
    · exact ⟨_, whenSystemExt_of_ext hext _, primaskResult_setPrimask_cost s false .hint⟩
    · exact ⟨_, whenSystemExt_of_ext hext _, primaskResult_setPrimask_cost s true .hint⟩
  case refused => and_intros <;> exact whenSystemExt_of_noExt hext rfl _

/-! ### The words of MRS and MSR (spec 10 R37, 30 R75) -/

theorem sysmField_toNat (r : SysReg) : (sysmField r).toNat = r.toNat := by cases r <;> rfl

theorem sysReg_ofNat?_eq_none {sysm : BitVec 8} (h : ∀ q, sysm ≠ sysmField q) : SysReg.ofNat? sysm.toNat = none := by
  rw [Option.eq_none_iff_forall_ne_some]
  intro q hq
  exact h q (BitVec.eq_of_toNat_eq ((SysReg.toNat_of_ofNat? hq).symm.trans (sysmField_toNat q).symm))

theorem mrsWord_toNat (rd : Reg) (sysm : BitVec 8) : (0b1000#4 ++ f4 rd ++ sysm).toNat = 0x8000 + rd.val * 2 ^ 8 + sysm.toNat := by
  simp only [toNat_append_eq_add, BitVec.toNat_ofNat]; omega

theorem encode_mrs (rd : Reg) (r : SysReg) : encode (.mrs rd r) = (0xF3EF#16, some (0b1000#4 ++ f4 rd ++ sysmField r)) :=
  enc32_eq rfl (by rw [mrsWord_toNat, sysmField_toNat])

theorem encode_msr (r : SysReg) (rn : Reg) :
    encode (.msr r rn) = (0b111100111000#12 ++ f4 rn, some (0b10001000#8 ++ sysmField r)) :=
  enc32_eq (msrWord_toNat rn) (by rw [toNat_append_eq_add, sysmField_toNat]; rfl)

/-- A 32-bit word that matches no row is refused. -/
theorem refusedWord_of_decode32 {hw1 hw2 : Half} {n m : Nat} {e : DecodeReject} (e1 : hw1.toNat = n) (e2 : hw2.toNat = m)
    (hwide : 0xE800 ≤ n) (h : decode32 n m = .error e) : refusedWord hw1 (some hw2) := by
  have hrow := decodeRow_enc32 hwide (e1 ▸ hw1.isLt) (e2 ▸ hw2.isLt)
  rw [enc32_eq e1 e2, h] at hrow
  exact ⟨e, by rw [decode, hrow]⟩

/-- MRS of a number that names no special register. -/
theorem refusedWord_mrs_unnamed (rd : Reg) {sysm : BitVec 8} (h : ∀ q, sysm ≠ sysmField q) :
    refusedWord 0xF3EF#16 (some (0b1000#4 ++ f4 rd ++ sysm)) := by
  refine refusedWord_of_decode32 (e := .noSpecialRegister) rfl (mrsWord_toNat rd sysm) (by decide) ?_
  simp (disch := omega) [decode32, withSysReg, sysReg_ofNat?_eq_none h]

/-- MSR of a number that names no special register. -/
theorem refusedWord_msr_unnamed (rn : Reg) {sysm : BitVec 8} (h : ∀ q, sysm ≠ sysmField q) :
    refusedWord (0b111100111000#12 ++ f4 rn) (some (0b10001000#8 ++ sysm)) := by
  refine refusedWord_of_decode32 (e := .noSpecialRegister) (msrWord_toNat rn) (toNat_append_eq_add _ sysm) (by omega) ?_
  simp (disch := omega) [decode32, withSysReg, sysReg_ofNat?_eq_none h]

/-! ### MRS (spec 46 R183) -/

theorem mrs_wellFormed {rd : Reg} (h13 : rd ≠ 13) (h15 : rd ≠ 15) (r : SysReg) : (Instr.mrs rd r).WellFormed := by
  simpa [Instr.WellFormed, Instr.wellFormed, Fin.ext_iff] using And.intro h13 h15

/-- The packed flags are N, Z, C and V at their places. -/
theorem Flags.packed_eq_ofNat (f : Flags) : f.packed =
    BitVec.ofNat 32 (f.n.toNat * 2 ^ 31 + f.z.toNat * 2 ^ 30 + f.c.toNat * 2 ^ 29 + f.v.toNat * 2 ^ 28) := by
  have hn := f.n.toNat_le
  have hz := f.z.toNat_le
  have hc := f.c.toNat_le
  have hv := f.v.toNat_le
  refine BitVec.eq_of_toNat_eq ?_
  simp only [Flags.packed, toNat_append_eq_add, BitVec.toNat_ofBool, BitVec.toNat_ofNat]
  omega

/-- Settles O38: an admitted MRS writes the value of `readSysReg` by `writePlain`. -/
theorem readSpecialRegister : Obligations.ReadSpecialRegister := by
  intro s rd r
  refine ⟨fun h13 h15 => decode_eq_ok_of_encode_eq (encode_mrs rd r) (mrs_wellFormed h13 h15 r), fun sysm h => ?unnamed,
    fun hext h15 => ?admitted, fun hext => whenSystemExt_of_noExt hext (encode_mrs rd r) _⟩
  case unnamed =>
    obtain h13 | h15 | h := h
    · exact refusedWord_mrs (.inl h13) sysm
    · exact refusedWord_mrs (.inr h15) sysm
    · exact refusedWord_mrs_unnamed rd h
  case admitted =>
    obtain ⟨t, ht, hplain⟩ := plainResult_writePlain s h15 (readSysReg r s) .system
    refine ⟨t, (whenSystemExt_of_ext hext _).trans ht, ?_⟩
    rw [← Flags.packed_eq_ofNat, ← BitVec.toNat_ofBool, ← zext_eq_ofNat]
    cases r <;> exact hplain

/-! ### MSR (spec 46 R184) -/

theorem msr_wellFormed {rn : Reg} (h13 : rn ≠ 13) (h15 : rn ≠ 15) (r : SysReg) : (Instr.msr r rn).WellFormed :=
  mrs_wellFormed h13 h15 r

/-- Settles O39: an admitted MSR is `writeSysReg`, by the register it names. -/
theorem writeSpecialRegister : Obligations.WriteSpecialRegister := by
  rintro s rn r v rfl
  refine ⟨fun h13 h15 => decode_eq_ok_of_encode_eq (encode_msr r rn) (msr_wellFormed h13 h15 r), fun sysm h => ?unnamed,
    fun hext => ?admitted, fun hext => whenSystemExt_of_noExt hext (encode_msr r rn) _⟩
  case unnamed =>
    obtain h13 | h15 | h := h
    · exact refusedWord_msr (.inl h13) sysm
    · exact refusedWord_msr (.inr h15) sysm
    · exact refusedWord_msr_unnamed rn h
  case admitted =>
    have hexec : exec (.msr r rn) s = writeSysReg (.msr r rn) r (s.x rn) s := whenSystemExt_of_ext hext _
    simp only [runs, hexec]
    refine ⟨?apsr, ?kept, ?msp, ?primask, ?control⟩
    case apsr =>
      rintro (rfl | rfl | rfl | rfl) <;> exact ⟨_, rfl, rfl, rfl, registerFrame_refl⟩
    case kept =>
      rintro (rfl | rfl | rfl | ⟨rfl, hbit⟩)
      case inr.inr.inr => exact ⟨_, if_neg (Bool.eq_false_iff.mp hbit), nopResult_cost s .system⟩
      all_goals exact ⟨_, rfl, nopResult_cost s .system⟩
    case msp =>
      rintro rfl
      exact plainResult_writePlain s (d := sp) (by decide) _ .system
    case primask =>
      rintro rfl
      exact ⟨_, rfl, primaskResult_setPrimask_cost s _ .system⟩
    case control =>
      rintro rfl hbit
      exact (if_pos hbit).trans (raiseMalformed_of_encode (encode_msr .control rn))

end Sys2Proof.Machine
end

section
/-! PROOFS. The checkpoint engine: backup, restore and the calls of a scheme's methods (spec 48, 49 R205). -/

namespace Sys2Proof.Machine

/-! ### The reply of the reference scheme (spec 48 R202) -/

section
variable {s s' : State} {p : Program}

/-- A written-out method whose cycles and energy are the constant 0 is free. -/
theorem State.reply_of_free {c : Call} (hp : s.scheme.policy = .program p) (hcycles : (p.method c).cycles = .const 0)
    (henergy : (p.method c).energy = .const 0) : (s.reply c).cycles = 0 ∧ (s.reply c).energy = 0 := by
  have hreply : s.reply c = (p.method c).reply s.owned c := by rw [State.reply, hp, Policy.reply]
  rw [hreply, Method.reply, hcycles, henergy]
  exact ⟨rfl, rfl⟩

theorem State.backup_of_reference (hp : s.scheme.policy = .program p) (href : p.reference) :
    s.backup.1 = 0 ∧ s.backup.2.battery.stored = s.battery.stored := by
  obtain ⟨hcycles, henergy, -, -⟩ := href
  obtain ⟨hc, he⟩ := State.reply_of_free (c := .backup s.cpu) hp hcycles henergy
  exact ⟨hc, by rw [State.backup_battery, he, Battery.draw_zero_stored]⟩

theorem State.restore_of_reference (hp : s.scheme.policy = .program p) (href : p.reference) :
    s.restore.1 = 0 ∧ s.restore.2.battery.stored = s.battery.stored := by
  obtain ⟨-, -, hcycles, henergy⟩ := href
  obtain ⟨hc, he⟩ := State.reply_of_free (c := .restore s.cpu) hp hcycles henergy
  exact ⟨hc, by rw [State.restore_battery, he, Battery.draw_zero_stored]⟩

/-! ### What a call depends on (spec 48 R204) -/

theorem State.reply_congr (hscheme : s'.scheme = s.scheme) (hbattery : s'.battery = s.battery) (c : Call) :
    s'.reply c = s.reply c := by
  simp only [State.reply, State.owned, hscheme, hbattery]

theorem State.remember_scheme_congr {r r' : Reply} (hscheme : s'.scheme = s.scheme) (hr : r' = r) :
    (s'.remember r').scheme = (s.remember r).scheme := by
  simp only [State.remember, hscheme, hr]

theorem State.backup_scheme (s : State) :
    s.backup.2.scheme = (s.remember (s.reply (.backup s.cpu))).scheme.backup s.cpu := rfl

theorem State.restore_scheme (s : State) :
    s.restore.2.scheme = ((s.remember (s.reply (.restore s.cpu))).scheme.restore s.cpu).1 := rfl

/-! ### What a call leaves alone -/

/-- What every call of a scheme's method leaves alone: what no bookkeeping of a tick touches, the loop state and the form of the
charging. -/
structure CallFrame (s t : State) : Prop extends Untouched s t where
  loop : t.loop = s.loop
  charging : t.battery.charging = s.battery.charging

/-- A method that asks no energy of the battery only updates the scheme's cells. -/
theorem exists_remember_of_call {t : State}
    (h : t = s.isActive.2 ∨ t = s.willBackup.2 ∨ (∃ p, t = (s.estimateProgress p).2) ∨ t = s.clockFrequency.2 ∨
      t = s.askBattery) : ∃ r, t = s.remember r := by
  obtain rfl | rfl | ⟨p, rfl⟩ | rfl | rfl := h <;> exact ⟨_, rfl⟩

theorem CallFrame.remember (s : State) (r : Reply) : CallFrame s (s.remember r) :=
  ⟨⟨rfl, rfl, rfl, rfl, rfl, rfl, rfl, rfl, rfl⟩, rfl, rfl⟩

theorem CallFrame.executeInstruction (s : State) : CallFrame s s.executeInstruction := ⟨.executeInstruction, rfl, rfl⟩

theorem CallFrame.backup (s : State) : CallFrame s s.backup.2 := ⟨.backup, rfl, rfl⟩

theorem CallFrame.restore (s : State) : CallFrame s s.restore.2 := ⟨.restore, rfl, rfl⟩

/-- Every call has the frame, and restore alone writes the CPU State. -/
theorem callFrame_of_call {t : State}
    (h : t = s.isActive.2 ∨ t = s.willBackup.2 ∨ t = s.executeInstruction ∨ t = s.backup.2 ∨
      (∃ p, t = (s.estimateProgress p).2) ∨ t = s.clockFrequency.2 ∨ t = s.askBattery ∨ t = s.restore.2) :
    CallFrame s t ∧ (t = s.restore.2 ∨ t.cpu = s.cpu) := by
  have hmemo (r : Reply) : CallFrame s (s.remember r) ∧ (s.remember r = s.restore.2 ∨ (s.remember r).cpu = s.cpu) :=
    ⟨.remember s r, .inr (s.remember_cpu r)⟩
  obtain rfl | rfl | rfl | rfl | ⟨p, rfl⟩ | rfl | rfl | rfl := h
  exacts [hmemo _, hmemo _, ⟨.executeInstruction s, .inr s.executeInstruction_cpu⟩, ⟨.backup s, .inr s.backup_cpu⟩,
    hmemo _, hmemo _, hmemo _, ⟨.restore s, .inl rfl⟩]

end

/-- Settles O48: backup fills the slot, and restore reads the CPU State from it. -/
theorem backupAndRestore : Obligations.BackupAndRestore := by
  intro s u
  refine ⟨⟨s.backup_slot, s.backup_cpu, rfl, rfl, s.backup_loop⟩,
    ⟨s.restore_slot, rfl, rfl, s.restore_loop, fun hempty => ?empty, fun c hfull => ?full⟩,
    fun hslot => ⟨?roundTrip, rfl⟩, fun c => ?latest, fun p hp href => ?reference⟩
  case empty => rw [State.restore_cpu, hempty, Option.getD_none]
  case full => rw [State.restore_cpu, hfull, Option.getD_some]
  case roundTrip => rw [State.restore_cpu, hslot, State.backup_slot, Option.getD_some]
  case latest => rw [State.restore_cpu, State.backup_slot, Option.getD_some]
  case reference =>
    obtain ⟨hcb, heb⟩ := State.backup_of_reference hp href
    exact ⟨hcb, heb, State.restore_of_reference hp href⟩

/-- Settles O49: what the scheme owns and the arguments determine the reply, and a call only remembers it, draws its energy and
writes the slot. -/
theorem schemeCalls : Obligations.SchemeCalls := by
  intro s s' hscheme hbattery hnum
  have hreply := State.reply_congr hscheme hbattery
  refine ⟨fun hcpu hstats => ?asked, fun hcpu hcycles => ?executed, fun hcpu => ?saved, fun p => ?estimated, ?constant,
    fun t ht => ?readOnly, fun t ht => ?frame⟩
  case asked =>
    have hactive : s'.reply (.isActive s'.cpu s'.stats) = s.reply (.isActive s.cpu s.stats) := by rw [hreply, hcpu, hstats]
    have hbackup : s'.reply (.willBackup s'.cpu s'.stats) = s.reply (.willBackup s.cpu s.stats) := by rw [hreply, hcpu, hstats]
    exact ⟨congrArg Reply.answer hactive, State.remember_scheme_congr hscheme hactive,
      congrArg Reply.answer hbackup, State.remember_scheme_congr hscheme hbackup⟩
  case executed =>
    have h : s'.reply (.executeInstruction s'.cpu s'.stepCycles) = s.reply (.executeInstruction s.cpu s.stepCycles) := by
      rw [hreply, hcpu, hcycles]
    refine ⟨State.remember_scheme_congr hscheme h, ?_⟩
    rw [State.executeInstruction_battery, State.executeInstruction_battery, h, hbattery, hnum]
  case saved =>
    have hb : s'.reply (.backup s'.cpu) = s.reply (.backup s.cpu) := by rw [hreply, hcpu]
    have hr : s'.reply (.restore s'.cpu) = s.reply (.restore s.cpu) := by rw [hreply, hcpu]
    refine ⟨congrArg Reply.cycles hb, ?_, ?_, congrArg Reply.cycles hr, ?_, ?_, ?_⟩
    · rw [State.backup_scheme, State.backup_scheme, State.remember_scheme_congr hscheme hb, hcpu]
    · rw [State.backup_battery, State.backup_battery, hb, hbattery, hnum]
    · rw [State.restore_cpu, State.restore_cpu, hscheme, hcpu]
    · rw [State.restore_scheme, State.restore_scheme, State.remember_scheme_congr hscheme hr, hcpu]
    · rw [State.restore_battery, State.restore_battery, hr, hbattery, hnum]
  case estimated =>
    exact ⟨congrArg Reply.value (hreply _), State.remember_scheme_congr hscheme (hreply _)⟩
  case constant =>
    exact ⟨congrArg Scheme.clockFrequency hscheme, State.remember_scheme_congr hscheme (hreply _),
      State.remember_scheme_congr hscheme (hreply _)⟩
  case readOnly =>
    obtain ⟨r, rfl⟩ := exists_remember_of_call ht
    exact ⟨s.remember_battery r, s.remember_scheme_slot r⟩
  case frame =>
    obtain ⟨hframe, hcpu⟩ := callFrame_of_call ht
    exact ⟨hframe.mem, hframe.exitFlag, hframe.loop, hframe.env, hframe.params, hframe.clockFrequency, hframe.capacitor,
      hframe.charging, hcpu⟩

end Sys2Proof.Machine
end

section
/-! PROOFS. A tick before its end (spec 49 R215 to R218): what it leaves, the energy it spends, the cycles it accounts for; with the end of
the tick, energy (spec 49 R227), the harvest, time and sample of a tick (R220 to R222), and the cycles of `elapsed` (R230). -/

namespace Sys2Proof.Machine

/-! ### The activation in two parts (spec 49 R216) -/

/-- The current period starts now. -/
def State.startPeriod (s : State) : State :=
  { s with loop := { s.loop with first := false, power := .active, cur := { s.loop.cur with cycleStart := s.loop.elapsed } } }

/-- The first activation only starts its period; a later one opens it first. -/
theorem activate_eq (s : State) :
    (s.loop.first = true ∧ activate s = (s.startPeriod, 0)) ∨
      (s.loop.first = false ∧ activate s = ((reactivate s).1.startPeriod, (reactivate s).2)) := by
  unfold activate
  cases s.loop.first
  · exact .inr ⟨rfl, rfl⟩
  · exact .inl ⟨rfl, rfl⟩

/-! ### What no part of a tick before its end touches -/

/-- What is constant over a run, the form of the battery, and what only the end of a tick writes (spec 49 R210, R220 to R222). -/
structure TickFrame (s t : State) : Prop where
  env : t.env = s.env
  params : t.params = s.params
  policy : t.scheme.policy = s.scheme.policy
  clockFrequency : t.scheme.clockFrequency = s.scheme.clockFrequency
  battery : t.battery = { s.battery with stored := t.battery.stored, events := t.battery.events }
  elapsed : t.loop.elapsed = s.loop.elapsed
  nextSample : t.loop.nextSample = s.loop.nextSample
  voltage : t.loop.voltage = s.loop.voltage
  rate : t.loop.rate = s.loop.rate
  totals : t.loop.totals = s.loop.totals

section
variable {s t u : State}

theorem TickFrame.refl : TickFrame s s := ⟨rfl, rfl, rfl, rfl, rfl, rfl, rfl, rfl, rfl, rfl⟩

theorem TickFrame.trans (h : TickFrame s t) (h' : TickFrame t u) : TickFrame s u where
  env := h'.env.trans h.env
  params := h'.params.trans h.params
  policy := h'.policy.trans h.policy
  clockFrequency := h'.clockFrequency.trans h.clockFrequency
  battery := by rw [h'.battery, h.battery]
  elapsed := h'.elapsed.trans h.elapsed
  nextSample := h'.nextSample.trans h.nextSample
  voltage := h'.voltage.trans h.voltage
  rate := h'.rate.trans h.rate
  totals := h'.totals.trans h.totals

theorem TickFrame.num (h : TickFrame s t) : t.num = s.num := congrArg Config.Params.num h.params

theorem TickFrame.isActive : TickFrame s s.isActive.2 := ⟨rfl, rfl, rfl, rfl, rfl, rfl, rfl, rfl, rfl, rfl⟩

theorem TickFrame.reactivate : TickFrame s (reactivate s).1 where
  env := Untouched.reactivate.env
  params := Untouched.reactivate.params
  policy := Untouched.reactivate.policy
  clockFrequency := Untouched.reactivate.clockFrequency
  battery := rfl
  elapsed := rfl
  nextSample := rfl
  voltage := rfl
  rate := rfl
  totals := rfl

theorem TickFrame.startPeriod : TickFrame s s.startPeriod := ⟨rfl, rfl, rfl, rfl, rfl, rfl, rfl, rfl, rfl, rfl⟩

theorem TickFrame.activate : TickFrame s (activate s).1 := by
  rcases activate_eq s with ⟨-, h⟩ | ⟨-, h⟩ <;> rw [h]
  · exact .startPeriod
  · exact TickFrame.reactivate.trans .startPeriod

theorem TickFrame.deactivate (h : deactivate s = .ok t) : TickFrame s t := by
  obtain ⟨n, rfl, -⟩ := deactivate_eq_ok h
  exact ⟨rfl, rfl, rfl, rfl, rfl, rfl, rfl, rfl, rfl, rfl⟩

theorem TickFrame.transition {c : Nat} (h : transition s = .ok (t, c)) : TickFrame s t := by
  rcases transition_eq_ok h with ⟨-, -, h⟩ | ⟨-, -, rfl, -⟩ | ⟨-, -, rfl, -⟩ | ⟨-, -, hd, -⟩
  · obtain rfl : t = (Machine.activate s.isActive.2).1 := congrArg Prod.fst h
    exact TickFrame.isActive.trans .activate
  · exact .isActive
  · exact .isActive
  · exact TickFrame.isActive.trans (.deactivate hd)

theorem TickFrame.cpuStep (h : cpuStep s = .next t) : TickFrame s t := by
  obtain ⟨⟨hscheme, hbattery, henv, hloop, hparams⟩, -⟩ := CoreStep.cpuStep h
  exact ⟨henv, hparams, by rw [hscheme], by rw [hscheme], by rw [hbattery], by rw [hloop], by rw [hloop], by rw [hloop],
    by rw [hloop], by rw [hloop]⟩

theorem TickFrame.accountInstr : TickFrame s (accountInstr s) := ⟨rfl, rfl, rfl, rfl, rfl, rfl, rfl, rfl, rfl, rfl⟩

theorem TickFrame.willBackup : TickFrame s s.willBackup.2 := ⟨rfl, rfl, rfl, rfl, rfl, rfl, rfl, rfl, rfl, rfl⟩

theorem TickFrame.accountBackup {tc : Nat} : TickFrame s (accountBackup tc s).1 :=
  ⟨rfl, rfl, rfl, rfl, rfl, rfl, rfl, rfl, rfl, rfl⟩

theorem TickFrame.retire {tc : Nat} : TickFrame s (retire tc s).1 := by
  have hw : TickFrame s (Machine.accountInstr s).willBackup.2 := TickFrame.accountInstr.trans .willBackup
  rcases retire_eq tc s with ⟨-, h⟩ | ⟨-, h⟩ <;> rw [h]
  · exact hw
  · exact hw.trans .accountBackup

end

/-! ### The energy stored and spent (spec 48 R201, 49 R227) -/

/-- The energy stored and the energy all periods spent, in exact arithmetic. -/
def State.energy (s : State) : Quantity := s.battery.stored + s.loop.spent

theorem Loop.spent_eq (l : Loop) : l.spent = (l.finished.map Period.spent).sum + l.cur.spent := by
  simp [Loop.spent, Loop.periods]

/-- Where the last period is all that changes of the periods, energy is kept as its spending balances the store. -/
theorem State.energy_eq_of_cur {s t : State} (hf : t.loop.finished = s.loop.finished)
    (h : t.battery.stored + t.loop.cur.spent = s.battery.stored + s.loop.cur.spent) : t.energy = s.energy := by
  rw [State.energy, State.energy, Loop.spent_eq, Loop.spent_eq, hf]
  linear_combination h

section
variable {s t : State}

/-- A new period pays for the restore that opens it. -/
theorem reactivate_energy (hn : s.num = .rational) : (reactivate s).1.energy = s.energy := by
  have hspent : (reactivate s).1.loop.spent =
      s.loop.spent + (s.battery.stored - s.useBattery.restore.2.battery.stored) := by
    rw [Loop.spent_eq]
    simp [reactivate, Loop.spent, Loop.periods, Period.spent, Period.new, removed, hn, Battery.energyStored]
  rw [State.energy, hspent, State.energy]
  simp [reactivate]
  ring

theorem activate_energy (hn : s.num = .rational) : (activate s).1.energy = s.energy := by
  have hstart (u : State) : u.startPeriod.energy = u.energy := State.energy_eq_of_cur rfl rfl
  rcases activate_eq s with ⟨-, h⟩ | ⟨-, h⟩ <;> rw [h, hstart]
  exact reactivate_energy hn

/-- A deactivation totals what its period spent, and spends nothing itself. -/
theorem deactivate_energy (h : deactivate s = .ok t) : t.energy = s.energy := by
  obtain ⟨n, rfl, -⟩ := deactivate_eq_ok h
  exact State.energy_eq_of_cur rfl rfl

theorem transition_energy {c : Nat} (hn : s.num = .rational) (h : transition s = .ok (t, c)) : t.energy = s.energy := by
  rcases transition_eq_ok h with ⟨-, -, h⟩ | ⟨-, -, rfl, -⟩ | ⟨-, -, rfl, -⟩ | ⟨-, -, hd, -⟩
  · obtain rfl : t = (activate s.isActive.2).1 := congrArg Prod.fst h
    exact activate_energy hn
  · rfl
  · rfl
  · exact deactivate_energy (s := s.isActive.2) hd

theorem cpuStep_energy (h : cpuStep s = .next t) : t.energy = s.energy := by
  obtain ⟨-, hbattery, -, hloop, -⟩ := (CoreStep.cpuStep h).loopSide
  rw [State.energy, hbattery, hloop, State.energy]

theorem accountInstr_energy (hn : s.num = .rational) : (accountInstr s).energy = s.energy := by
  refine State.energy_eq_of_cur rfl ?_
  simp [accountInstr, Period.spent, removed, hn, Battery.energyStored]
  ring

theorem accountBackup_energy (hn : s.num = .rational) (tc : Nat) : (accountBackup tc s).1.energy = s.energy := by
  refine State.energy_eq_of_cur rfl ?_
  simp [accountBackup, Period.spent, removed, hn, Battery.energyStored]
  ring

theorem retire_energy (hn : s.num = .rational) (tc : Nat) : (retire tc s).1.energy = s.energy := by
  rcases retire_eq tc s with ⟨-, h⟩ | ⟨-, h⟩ <;> rw [h]
  · exact accountInstr_energy hn
  · exact (accountBackup_energy (s := (accountInstr s).willBackup.2) hn _).trans (accountInstr_energy hn)

/-- A transition draws at most what is stored. -/
theorem transition_stored_nonneg {c : Nat} (hn : s.num = .rational) (h : transition s = .ok (t, c)) (hs : 0 ≤ s.battery.stored) :
    0 ≤ t.battery.stored := by
  rcases transition_eq_ok h with ⟨-, -, h⟩ | ⟨-, -, rfl, -⟩ | ⟨-, -, rfl, -⟩ | ⟨-, -, hd, -⟩
  · obtain rfl : t = (activate s.isActive.2).1 := congrArg Prod.fst h
    rcases activate_eq s.isActive.2 with ⟨-, h⟩ | ⟨-, h⟩ <;> rw [h]
    · exact hs
    · exact draw_stored_nonneg hn _ _ hs
  · exact hs
  · exact hs
  · obtain ⟨n, rfl, -⟩ := deactivate_eq_ok hd
    exact hs

end

/-! ### The cycles accounted for (spec 49 R211, R230) -/

theorem Loop.cycles_eq (l : Loop) : l.cycles = (l.finished.map Period.cycles).sum + l.cur.cycles := by
  simp [Loop.cycles, Loop.periods]

section
variable {s t : State}

theorem reactivate_cycles : (reactivate s).1.loop.cycles = s.loop.cycles + (reactivate s).2 := by
  rw [Loop.cycles_eq]
  simp [reactivate, Loop.cycles, Loop.periods, Period.cycles, Period.new]

theorem activate_cycles : (activate s).1.loop.cycles = s.loop.cycles + (activate s).2 := by
  have hstart (u : State) : u.startPeriod.loop.cycles = u.loop.cycles := by rw [Loop.cycles_eq, Loop.cycles_eq]; rfl
  rcases activate_eq s with ⟨-, h⟩ | ⟨-, h⟩ <;> rw [h, hstart]
  · rfl
  · exact reactivate_cycles

theorem transition_cycles {c : Nat} (h : transition s = .ok (t, c)) : t.loop.cycles = s.loop.cycles + c := by
  rcases transition_eq_ok h with ⟨-, -, h⟩ | ⟨-, -, rfl, rfl⟩ | ⟨-, -, rfl, rfl⟩ | ⟨-, -, hd, rfl⟩
  · obtain ⟨rfl, rfl⟩ := Prod.mk.inj h
    exact activate_cycles
  · rfl
  · rfl
  · obtain ⟨n, rfl, -⟩ := deactivate_eq_ok hd
    rw [Loop.cycles_eq, Nat.add_zero, Loop.cycles_eq]
    rfl

theorem accountInstr_cycles : (accountInstr s).loop.cycles = s.loop.cycles + s.stepCycles := by
  rw [Loop.cycles_eq, Loop.cycles_eq]
  simp only [accountInstr, Period.cycles, State.setCur_loop_finished, State.setCur_loop_cur, State.metered_loop,
    State.executeInstruction_loop, State.useBattery_loop]
  omega

theorem accountBackup_cycles (tc : Nat) :
    (accountBackup tc s).1.loop.cycles = s.loop.cycles + s.useBattery.backup.1 := by
  rw [Loop.cycles_eq, Loop.cycles_eq]
  simp only [accountBackup, Period.cycles, State.setCur_loop_finished, State.setCur_loop_cur, State.metered_loop,
    State.metered_result, State.backup_loop, State.useBattery_loop]
  omega

/-- The accounting of an active tick charges to it what it adds to the period. -/
theorem retire_cycles (tc : Nat) : (retire tc s).1.loop.cycles + tc = s.loop.cycles + (retire tc s).2 := by
  rcases retire_eq tc s with ⟨-, h⟩ | ⟨-, h⟩ <;> rw [h]
  · rw [State.willBackup_loop, accountInstr_cycles]; omega
  · rw [accountBackup_cycles, State.willBackup_loop, accountInstr_cycles]; omega

end

/-! ### A tick as its parts before the end, and the end -/

/-- What the parts of a tick before its end do, from its start `s` to the state `z` whose tick of `tc` cycles ends. -/
structure BeforeClose (s z : State) (tc : Nat) : Prop extends TickFrame s z where
  energy : s.num = .rational → z.energy = s.energy
  stored_nonneg : s.num = .rational → 0 ≤ s.battery.stored → 0 ≤ z.battery.stored
  cycles : z.loop.cycles + (if z.loop.power = .inactive then s.params.idleTickCycles else 0) = s.loop.cycles + tc
  inactive_battery : z.loop.power = .inactive → z.battery = s.battery
  idle : s.loop.power = .inactive → z.loop.power = .inactive → z = s.isActive.2

/-- A tick that ends Inactive leaves the battery to its end, and one that was Inactive is only asked for (spec 49 R215, R219). -/
theorem transition_of_inactive {s r : State} {c : Nat} (h : transition s = .ok (r, c)) (hr : r.loop.power = .inactive) :
    c = 0 ∧ r.battery = s.battery ∧ (s.loop.power = .inactive → r = s.isActive.2) := by
  rcases transition_eq_ok h with ⟨-, -, h⟩ | ⟨-, -, rfl, rfl⟩ | ⟨-, -, rfl, rfl⟩ | ⟨hp, -, hd, rfl⟩
  · obtain rfl : r = (activate s.isActive.2).1 := congrArg Prod.fst h
    cases hr
  · exact ⟨rfl, rfl, fun _ => rfl⟩
  · exact ⟨rfl, rfl, fun _ => rfl⟩
  · obtain ⟨n, rfl, -⟩ := deactivate_eq_ok hd
    exact ⟨rfl, rfl, fun hi => by rw [hp] at hi; cases hi⟩

theorem BeforeClose.of_active {s r u : State} {c : Nat} (h : transition s = .ok (r, c)) (hr : r.loop.power = .active)
    (hu : cpuStep r = .next u) : BeforeClose s (retire c u).1 (retire c u).2 := by
  have htr := TickFrame.transition h
  have hru := htr.trans (.cpuStep hu)
  have hloop : u.loop = r.loop := (CoreStep.cpuStep hu).loopSide.2.2.2.1
  have hpower : (retire c u).1.loop.power = .active := by rw [retire_loop, hloop]; exact hr
  refine ⟨hru.trans .retire, fun hn => ?energy, fun hn hs => ?stored, ?cycles, fun hi => ?battery, fun _ hi => ?idle⟩
  case energy =>
    exact (retire_energy (hru.num.trans hn) c).trans ((cpuStep_energy hu).trans (transition_energy hn h))
  case stored =>
    refine retire_stored_nonneg (hru.num.trans hn) c ?_
    rw [(CoreStep.cpuStep hu).loopSide.2.1]
    exact transition_stored_nonneg hn h hs
  case cycles =>
    have htick := retire_cycles (s := u) c
    rw [hloop, transition_cycles h] at htick
    rw [hpower, if_neg (by decide)]
    omega
  case battery => rw [hpower] at hi; cases hi
  case idle => rw [hpower] at hi; cases hi

theorem BeforeClose.of_inactive {s r : State} {c : Nat} (h : transition s = .ok (r, c)) (hr : r.loop.power = .inactive) :
    BeforeClose s r (c + s.params.idleTickCycles) := by
  obtain ⟨rfl, hbattery, hidle⟩ := transition_of_inactive h hr
  refine ⟨.transition h, fun hn => transition_energy hn h, fun hn => transition_stored_nonneg hn h, ?_, fun _ => hbattery,
    fun hp _ => hidle hp⟩
  rw [if_pos hr, transition_cycles h, Nat.zero_add, Nat.add_zero]

/-- A step of a run that is not over is the end of a tick, after the parts before it. -/
theorem exists_closeTick_of_step {s t : State} (he : s.exitFlag = false) (h : step s = .next t) :
    ∃ z tc, t = closeTick tc z ∧ BeforeClose s z tc := by
  rcases step_eq_next h with ⟨he', -⟩ | ⟨-, r, c, hr, ⟨hp, u, hu, rfl⟩ | ⟨hp, rfl⟩⟩
  · rw [he] at he'; cases he'
  · exact ⟨_, _, rfl, .of_active hr hp hu⟩
  · exact ⟨_, _, rfl, .of_inactive hr hp⟩

/-! ### The end of a tick (spec 49 R220, R227) -/

section
variable {s : State} {tc : Nat}

/-- The periods spend at the end of a tick what they spent before it. -/
theorem closeTick_spent : (closeTick tc s).loop.spent = s.loop.spent := by
  rw [Loop.spent_eq, Loop.spent_eq, closeTick_finished, closeTick_cur]
  split <;> rfl

theorem closeTick_cycles : (closeTick tc s).loop.cycles = s.loop.cycles := by
  rw [Loop.cycles_eq, Loop.cycles_eq, closeTick_finished, closeTick_cur]
  split <;> rfl

/-- In exact arithmetic the end of a tick stores what it harvests, which at a rate that is not negative is at least 0 and at most
what is offered. -/
theorem exists_harvest_of_closeTick (hn : s.num = .rational) (tc : Nat) :
    ∃ amount, (closeTick tc s).battery.stored = s.battery.stored + amount ∧
      (closeTick tc s).loop.totals.energyHarvested = s.loop.totals.energyHarvested + amount ∧
      (0 ≤ s.loop.rate → 0 ≤ amount ∧ amount ≤ s.loop.rate * tc) := by
  by_cases hh : harvests s
  · refine ⟨harvested tc s, ?_, ?_, fun hrate => ?_⟩
    · rw [closeTick_battery, if_pos hh, Battery.harvest, hn]; rfl
    · rw [closeTick_energyHarvested, if_pos hh, hn]; rfl
    · rw [harvested, hn]
      exact s.battery.accepts_mem (mul_nonneg hrate (Nat.cast_nonneg tc))
  · refine ⟨0, ?_, ?_, fun hrate => ⟨le_rfl, mul_nonneg hrate (Nat.cast_nonneg tc)⟩⟩
    · rw [closeTick_battery, if_neg hh, add_zero]
    · rw [closeTick_energyHarvested, if_neg hh, add_zero]

end

/-- Settles O55: the parts of a tick before its end keep what is stored and spent, and its end stores what it harvests. -/
theorem energyConserved : Obligations.EnergyConserved := by
  intro s t hn h
  cases he : s.exitFlag with
  | true =>
    obtain ⟨-, rfl⟩ | ⟨he', -⟩ := step_eq_next h
    · exact ⟨rfl, fun _ => ⟨le_rfl, by simp⟩, fun hs _ => hs⟩
    · rw [he] at he'; cases he'
  | false =>
    obtain ⟨z, tc, rfl, hz⟩ := exists_closeTick_of_step he h
    obtain ⟨amount, hstored, hharvested, hbounds⟩ := exists_harvest_of_closeTick (hz.num.trans hn) tc
    have hkept := hz.energy hn
    rw [State.energy, State.energy] at hkept
    rw [hz.totals] at hharvested
    rw [hz.rate] at hbounds
    have htc : (closeTick tc z).loop.elapsed - s.loop.elapsed = tc := by
      rw [closeTick_elapsed, hz.elapsed, Nat.add_sub_cancel_left]
    rw [hstored, closeTick_spent, hharvested, htc]
    refine ⟨by linear_combination hkept, fun hrate => ?_, fun hs hrate => ?_⟩
    · obtain ⟨h0, hoffer⟩ := hbounds hrate
      exact ⟨le_add_of_nonneg_right h0, by rwa [add_sub_cancel_left]⟩
    · exact add_nonneg (hz.stored_nonneg hn hs) (hbounds hrate).1

/-- Settles O56: a tick lasts the cycles that its parts add to the periods, and IDLE_TICK_CYCLES where it ends Inactive. -/
theorem elapsedAccounted : Obligations.ElapsedAccounted := by
  intro s t he h
  obtain ⟨z, tc, rfl, hz⟩ := exists_closeTick_of_step he h
  have hcycles := hz.cycles
  rw [closeTick_elapsed, closeTick_cycles, closeTick_power, hz.elapsed]
  omega

/-- Settles O54: what the end of a tick leaves, over what the parts before it leave alone. -/
theorem tickEnd : Obligations.TickEnd := by
  intro s t he h
  obtain ⟨z, tc, rfl, hz⟩ := exists_closeTick_of_step he h
  have hnum := hz.num
  refine ⟨z.battery, tc, by rw [closeTick_elapsed, hz.elapsed], hz.battery, fun hi => ?untouched, fun ha hno => ?notHarvested,
    fun hh => ?harvested, ?time, fun hs => ?sampled, fun hs => ?notSampled, fun hp hi => ?memo⟩
  case untouched => exact hz.inactive_battery ((closeTick_power tc z).symm.trans hi)
  case notHarvested =>
    have hnot : ¬harvests z := by
      rw [closeTick_power] at ha
      rw [harvests, ha, hz.params, hno]
      decide
    rw [closeTick_battery, closeTick_energyHarvested, if_neg hnot, if_neg hnot, hz.totals]
    exact ⟨rfl, rfl⟩
  case harvested =>
    have hyes : harvests z := by rwa [closeTick_power, ← hz.params] at hh
    refine ⟨harvested tc z, ?_, ?_, ?_, fun hn hrate => ?_⟩
    · rw [harvested, hnum, hz.rate]
    · rw [closeTick_energyHarvested, if_pos hyes, hnum, hz.totals]
    · rw [closeTick_battery, if_pos hyes, Battery.harvest, hnum]
    · rw [harvested, hnum, hz.rate, hn]
      exact z.battery.accepts_mem (mul_nonneg hrate (Nat.cast_nonneg tc))
  case time => rw [closeTick_time, closeTick_elapsed, hnum, hz.clockFrequency]
  case sampled =>
    rw [closeTick_rate, closeTick_nextSample, closeTick_voltage, hnum, hz.nextSample, if_pos hs, if_pos hs, if_pos hs, hz.env]
    exact ⟨rfl, rfl, rfl⟩
  case notSampled =>
    have hno := Bool.eq_false_iff.mp hs
    rw [closeTick_voltage, closeTick_rate, closeTick_nextSample, hnum, hz.nextSample, if_neg hno, if_neg hno, if_neg hno, hz.voltage,
      hz.rate]
    exact ⟨rfl, rfl, rfl⟩
  case memo =>
    obtain rfl := hz.idle hp ((closeTick_power tc z).symm.trans hi)
    exact closeTick_memo tc _

end Sys2Proof.Machine
end

section
/-! PROOFS. The exception return and its faults (spec 60 R237, R238), and the causes of the fatal conditions of an instruction (spec 60 R231). -/

namespace Sys2Proof.Machine

/-! ### The exception return (spec 60 R238) -/

section
variable {s : State}

theorem wordsReadable_mono {base : Word} {k n : Nat} (h : wordsReadable s base n) (hk : k ≤ n) : wordsReadable s base k :=
  fun j hj => h j (hj.trans_le hk)

/-- The first six words of a frame can be read: what is left of the exception return is its two last words. -/
theorem exceptionReturn_of_wordsReadable (hp : s.params.legal) (hr : wordsReadable s (s.x 13) 6) :
    ∃ u, exceptionReturn s = orFault (memRead s (wordAddr (s.x 13) 6) .word) fun ret =>
      orFault (memRead s (wordAddr (s.x 13) 7) .word) fun psr =>
        if psr.getLsbD 24 then .next (afterReturn u (s.x 13) ret psr)
        else .fault (.modeViolation ((ret &&& 0xFFFFFFFE#32) + 4#32)) := by
  obtain ⟨u, hu, -, hmem, -, -, hframe⟩ :=
    loadRegs_of_wordsReadable (rs := frameRegs) rfl hp hr (by decide) (by decide)
  have hread (addr : Word) : memRead u addr .word = memRead s addr .word := memRead_eq_of_registerFrame hmem hframe
  exact ⟨u, by rw [exceptionReturn, sp, hu, orFault_ok, hread, hread]; rfl⟩

/-- A frame that can be read, with bit 24 of its status word clear, is refused with the address it returns to plus 4. -/
theorem exceptionReturn_of_bit24_clear (hp : s.params.legal) (hr : wordsReadable s (s.x 13) 8)
    (hbit : (s.word (wordAddr (s.x 13) 7)).getLsbD 24 = false) :
    exceptionReturn s = .fault (.modeViolation ((s.word (wordAddr (s.x 13) 6) &&& 0xFFFFFFFE#32) + 4#32)) := by
  obtain ⟨u, hu⟩ := exceptionReturn_of_wordsReadable hp (wordsReadable_mono hr (by decide))
  rw [hu, memRead_of_readable hp (hr 6 (by decide)), orFault_ok, memRead_of_readable hp (hr 7 (by decide)), orFault_ok, hbit]
  rfl

theorem exceptionReturn_of_misaligned (hp : s.params.legal) (ha : (s.x 13).toNat % 4 ≠ 0) :
    exceptionReturn s = .fault (.alignmentFault (s.x 13) 4) := by
  rw [exceptionReturn, sp, loadRegs_of_misaligned hp (by decide) ha, orFault_error]

/-- An exception return faults at the first word of its frame that cannot be read. -/
theorem exceptionReturn_of_unmapped (hp : s.params.legal) {k : Nat} (hk : k < 8) (ha : (s.x 13).toNat % 4 = 0)
    (hr : wordsReadable s (s.x 13) k) (hm : mapped s.params (wordAddr (s.x 13) k).toNat = false) :
    exceptionReturn s = .fault (.memoryFault (wordAddr (s.x 13) k) 4 .read) := by
  by_cases h6 : k < 6
  · rw [exceptionReturn, sp, loadRegs_of_unmapped hp h6 ha hr hm, orFault_error]
  · have hbad : memRead s (wordAddr (s.x 13) k) .word = .error (.memoryFault (wordAddr (s.x 13) k) 4 .read) :=
      (memoryReads s _ .word hp).2.1 ((wordAddr_toNat_mod_four _ k).trans ha) hm
    obtain ⟨u, hu⟩ := exceptionReturn_of_wordsReadable hp (wordsReadable_mono hr (Nat.le_of_not_lt h6))
    obtain rfl | rfl : k = 6 ∨ k = 7 := by omega
    · rw [hu, hbad, orFault_error]
    · rw [hu, memRead_of_readable hp (hr 6 (by decide)), orFault_ok, hbad, orFault_error]

end

/-- Settles O33: the loads of the frame in order, then bit 24 of its status word. -/
theorem exceptionReturnPopsFrame : Obligations.ExceptionReturn := by
  rintro s frame hp rfl
  exact ⟨fun m => bxWritePC_of_excReturn (s.cost .bx), returnResult_exceptionReturn hp, exceptionReturn_of_bit24_clear hp,
    exceptionReturn_of_misaligned hp, fun k hk => exceptionReturn_of_unmapped hp hk⟩

/-! ### Why an instruction faults (spec 60 R231, R233) -/

/-- The fatal conditions of an instruction, each with its cause. -/
inductive FaultCause (i : Instr) (s : State) : Fault → Prop
  | malformed (h : isRefusedRow i = true ∨ (isSystemRow i = true ∧ s.params.systemExt = false) ∨
      ∃ rn, i = .msr .control rn ∧ (s.x rn).getLsbD 1 = true) :
      FaultCause i s (.malformedInstruction s.addr (encode i).1 (encode i).2)
  /-- BX and POP with PC through a value that is no exception-return value (spec 40 R107). -/
  | interworking {target : Word} (hbit : target.getLsbD 0 = false) (hv : branchValue i s = some target)
      (htop : target.extractLsb' 28 4 ≠ 0xF#4) : FaultCause i s (.unsupportedInterworking s.addr target)
  | blx {rm : Reg} (hi : i = .blx rm) (hbit : (s.x rm).getLsbD 0 = false) :
      FaultCause i s (.unsupportedInterworking s.addr (s.x rm))
  | statusWord {frame : Word} (h : returnsFromException i s) (hframe : returnFrame i s = some frame)
      (hbit : (s.word (wordAddr frame 7)).getLsbD 24 = false) :
      FaultCause i s (.modeViolation ((s.word (wordAddr frame 6) &&& 0xFFFFFFFE#32) + 4#32))
  | misaligned {addr : Word} {w : Width} (hi : accessesMemory i = true) (ha : aligned addr w = false) :
      FaultCause i s (.alignmentFault addr w.bytes)
  | unreadable {addr : Word} {w : Width} (hi : accessesMemory i = true) (ha : aligned addr w = true)
      (hm : allMapped s.params addr w = false) : FaultCause i s (.memoryFault addr w.bytes .read)
  | unwritable {addr : Word} {w : Width} (hi : accessesMemory i = true) (ha : aligned addr w = true)
      (hd : allData s.params addr w = false) : FaultCause i s (.memoryFault addr w.bytes .write)
  /-- A PUSH at SP = 0 under the reading `faults` (notes/assumptions/16.md). -/
  | pushAtZero {m : Bool} {list : BitVec 8} (hi : i = .push m list) (h0 : pushFaultsAtZero s) :
      FaultCause i s (.memoryFault (s.x 13 - BitVec.ofNat 32 (4 * (bitCount list + m.toNat))) 4 .write)

/-- The result of an instruction, or of a part of it, is a next state or a fatal condition that the instruction has a cause for. -/
inductive Explained (i : Instr) (s : State) : Result → Prop
  | next (t : State) : Explained i s (.next t)
  | fault {f : Fault} (h : FaultCause i s f) : Explained i s (.fault f)

section
variable {i : Instr} {s u : State} {addr : Word} {w : Width} {f : Fault}

theorem Explained.orFault {α : Type} {e : Except Fault α} {k : α → Result} (herr : ∀ f, e = .error f → FaultCause i s f)
    (hok : ∀ a, e = .ok a → Explained i s (k a)) : Explained i s (orFault e k) := by
  cases e with
  | error f => exact .fault (herr f rfl)
  | ok a => exact hok a rfl

/-! #### Accesses (spec 20 R55, R56, R58) -/

theorem FaultCause.memRead (hi : accessesMemory i = true) (hp : u.params = s.params) (h : memRead u addr w = .error f) :
    FaultCause i s f := by
  obtain ⟨ha, rfl⟩ | ⟨ha, hm, rfl⟩ := memRead_eq_error.mp h
  · exact .misaligned hi ha
  · exact .unreadable hi ha (hp ▸ hm)

theorem FaultCause.memWrite {v : Word} (hi : accessesMemory i = true) (hp : u.params = s.params)
    (h : memWrite u addr w v = .error f) : FaultCause i s f := by
  obtain ⟨ha, rfl⟩ | ⟨ha, hd, rfl⟩ := memWrite_eq_error.mp h
  · exact .misaligned hi ha
  · exact .unwritable hi ha (hp ▸ hd)

theorem FaultCause.loadRegs {rs : List Reg} (hi : accessesMemory i = true) (hp : u.params = s.params)
    (h : loadRegs rs addr u = .error f) : FaultCause i s f := by
  induction rs generalizing addr u with
  | nil => cases h
  | cons r rest ih =>
    simp only [Machine.loadRegs] at h
    split at h
    · exact ih (u := u.setX r _) hp h
    · rename_i hread
      cases h
      exact .memRead hi hp hread

theorem FaultCause.storeRegs {rs : List Reg} (hi : accessesMemory i = true) (hp : u.params = s.params)
    (h : storeRegs rs addr u = .error f) : FaultCause i s f := by
  induction rs generalizing addr u with
  | nil => cases h
  | cons r rest ih =>
    simp only [Machine.storeRegs] at h
    split at h
    · rename_i u' hwrite
      obtain ⟨heq, -⟩ := memWrite_mem hwrite
      exact ih (by rw [heq]; exact hp) h
    · rename_i hwrite
      cases h
      exact .memWrite hi hp hwrite

theorem Explained.loadInto {rt : Reg} {extend : Word → Word} (hi : accessesMemory i = true) :
    Explained i s (loadInto rt addr w extend s) :=
  .orFault (fun _ => .memRead hi rfl) fun _ _ => .next _

theorem Explained.storeFrom {rt : Reg} (hi : accessesMemory i = true) : Explained i s (storeFrom rt addr w s) :=
  .orFault (fun _ => .memWrite hi rfl) fun _ _ => .next _

/-- A PUSH at SP = 0 may fault after its stores (spec 70 R256). -/
theorem Explained.push (m : Bool) (list : BitVec 8) : Explained (.push m list) s (exec (.push m list) s) := by
  rw [exec_push_eq rfl]
  refine .orFault (fun _ => .storeRegs rfl rfl) fun _ _ => ?_
  split
  · exact .fault (.pushAtZero rfl ‹_›)
  · exact .next _

/-! #### Refusals (spec 30 R79, 46 R184) -/

theorem Explained.refusedRow (hi : isRefusedRow i = true) : Explained i s (raiseMalformed i s) := .fault (.malformed (.inl hi))

theorem Explained.whenSystemExt {k : Result} (hi : isSystemRow i = true) (hk : Explained i s k) :
    Explained i s (whenSystemExt i s k) := by
  unfold Machine.whenSystemExt
  split
  · exact hk
  · exact .fault (.malformed (.inr (.inl ⟨hi, Bool.eq_false_iff.mpr ‹_›⟩)))

/-- MSR CONTROL with bit 1 set is refused even where it is admitted. -/
theorem Explained.writeSysReg (r : SysReg) (rn : Reg) :
    Explained (.msr r rn) s (writeSysReg (.msr r rn) r (s.x rn) s) := by
  cases r
  case control =>
    simp only [Machine.writeSysReg]
    split
    · exact .fault (.malformed (.inr (.inr ⟨rn, rfl, ‹_›⟩)))
    · exact .next _
  all_goals exact .next _

/-! #### Branches (spec 40 R107, 60 R238) -/

theorem loadRegs_params {rs : List Reg} (h : Machine.loadRegs rs addr s = .ok u) : u.params = s.params := by
  rw [(loadRegs_frame h).1]

theorem Explained.writeOrBranch {rd : Reg} {v : Word} : Explained i s (writeOrBranch rd v s) := by
  unfold Machine.writeOrBranch
  split <;> exact .next _

/-- An exception return, from the state `u` in which the instruction returns. -/
theorem Explained.exceptionReturn (hi : accessesMemory i = true) (hret : returnsFromException i s)
    (hframe : returnFrame i s = some (u.x sp)) (hmem : u.mem = s.mem) (hp : u.params = s.params) :
    Explained i s (exceptionReturn u) := by
  refine .orFault (fun _ => .loadRegs hi hp) fun u' hu' => ?_
  have hmem' : u'.mem = s.mem := (loadRegs_mem hu').trans hmem
  have hp' : u'.params = s.params := (loadRegs_params hu').trans hp
  refine .orFault (fun _ => .memRead hi hp') fun ret hread => .orFault (fun _ => .memRead hi hp') fun psr hread' => ?_
  obtain ⟨-, -, rfl⟩ := memRead_eq_ok.mp hread
  obtain ⟨-, -, rfl⟩ := memRead_eq_ok.mp hread'
  simp only [hmem']
  split
  · exact .next _
  · exact .fault (.statusWord hret hframe (Bool.eq_false_iff.mpr ‹_›))

/-- BX and POP with PC, from the state `u` in which they branch through their value. -/
theorem Explained.bxWritePC {target : Word} (hi : accessesMemory i = true) (hv : branchValue i s = some target)
    (hframe : returnFrame i s = some (u.x sp)) (hmem : u.mem = s.mem) (hp : u.params = s.params) (ha : u.addr = s.addr) :
    Explained i s (bxWritePC target u) := by
  by_cases htop : target.extractLsb' 28 4 = 0xF#4
  · rw [bxWritePC_of_excReturn u htop]
    exact .exceptionReturn hi ⟨target, hv, htop⟩ hframe hmem hp
  · cases hbit : target.getLsbD 0 with
    | true => rw [bxWritePC_of_thumb u htop hbit]; exact .next _
    | false => rw [bxWritePC_of_notThumb u htop hbit, ha]; exact .fault (.interworking hbit hv htop)

theorem Explained.pop (p : Bool) (list : BitVec 8) : Explained (.pop p list) s (exec (.pop p list) s) := by
  rw [exec_pop_eq]
  refine .orFault (fun _ => .loadRegs rfl rfl) fun u hu => ?_
  obtain ⟨hpc, -⟩ := loadRegs_status hu
  have hmem := loadRegs_mem hu
  have hp := loadRegs_params hu
  cases p with
  | false => exact .next _
  | true =>
    refine .orFault (fun _ => .memRead rfl hp) fun target hread => ?_
    obtain ⟨-, -, rfl⟩ := memRead_eq_ok.mp hread
    rw [hmem]
    refine .bxWritePC rfl rfl ?_ hmem hp ?_
    · exact congrArg some (State.x_setX_same u 13 _ sp_lt).symm
    · rw [State.addr, State.cost_cpu, State.setX_cpu_pcReg, hpc, State.addr]

/-- Every instruction answers a next state or a fatal condition with its cause. -/
theorem Explained.exec (i : Instr) (s : State) : Explained i s (exec i s) := by
  cases i
  case addsReg | subsReg | addsImm3 | subsImm3 | addsImm8 | subsImm8 | adcs | sbcs | rsbs | cmpImm | cmpReg | cmn | cmpHi | movsImm |
      ands | eors | orrs | bics | mvns | muls | tst | lslsImm | lsrsImm | asrsImm | lslsReg | lsrsReg | asrsReg | rors | adr | addSpRd |
      addSpImm7 | subSpImm7 | sxth | sxtb | uxth | uxtb | rev | rev16 | revsh | b | bl | bkpt | nop => exact .next _
  case addHi | movHi => exact .writeOrBranch
  case ldrLit | ldrReg | ldrhReg | ldrbReg | ldrshReg | ldrsbReg | ldrImm | ldrbImm | ldrhImm | ldrSp => exact .loadInto rfl
  case strReg | strhReg | strbReg | strImm | strbImm | strhImm | strSp => exact .storeFrom rfl
  case wfe | wfi | svc | udf | udfW => exact .refusedRow rfl
  case yield | sev | cpsie | cpsid | dsb | dmb | isb | mrs => exact .whenSystemExt rfl (.next _)
  case msr r rn => exact .whenSystemExt rfl (.writeSysReg r rn)
  case stm => exact .orFault (fun _ => .storeRegs rfl rfl) fun _ _ => .next _
  case ldm => exact .orFault (fun _ => .loadRegs rfl rfl) fun _ _ => .next _
  case push m list => exact .push m list
  case pop p list => exact .pop p list
  case bx rm => exact .bxWritePC (u := s.cost .bx) rfl rfl rfl rfl rfl rfl
  case bCond =>
    simp only [Machine.exec, execBCond]
    split <;> exact .next _
  case blx rm =>
    simp only [Machine.exec, execBlx]
    split
    · exact .next _
    · exact .fault (.blx rfl (Bool.eq_false_iff.mpr ‹_›))

end

/-- The byte of an access that is out of its region. -/
theorem exists_byte_of_all_eq_false {n : Nat} {p : Nat → Bool} (h : (List.range n).all p = false) : ∃ k < n, p k = false := by
  obtain ⟨k, hk, hp⟩ := List.all_eq_false.mp h
  exact ⟨k, List.mem_range.mp hk, Bool.eq_false_iff.mpr hp⟩

theorem Width.bytes_eq (w : Width) : w.bytes = 1 ∨ w.bytes = 2 ∨ w.bytes = 4 := by cases w <;> decide

/-- Settles O47: every instruction is `Explained`, and each cause of a fatal condition is one of the table. -/
theorem faultCauses : Obligations.FaultCauses := by
  intro i s
  refine ⟨fun r h => ?refused, fun f h => ?fault⟩
  case refused =>
    have hexp := Explained.exec i s
    rw [h] at hexp
    cases hexp
  case fault =>
    have hexp := Explained.exec i s
    rw [h] at hexp
    cases hexp with | fault hcause
    cases hcause with
    | malformed hrow => exact ⟨rfl, rfl, hrow⟩
    | interworking hbit hv htop => exact ⟨rfl, hbit, .inl ⟨hv, htop⟩⟩
    | blx hi hbit => exact ⟨rfl, hbit, .inr ⟨_, hi, rfl⟩⟩
    | statusWord hret hframe hbit => exact ⟨hret, _, hframe, hbit, rfl⟩
    | misaligned hi ha =>
      rename_i addr w
      have hmod := aligned_eq_false_iff.mp ha
      refine ⟨hi, w.bytes_eq.resolve_left fun h1 => hmod ?_, hmod⟩
      rw [h1, Nat.mod_one]
    | unreadable hi ha hm => exact ⟨hi, Width.bytes_eq _, aligned_iff.mp ha, .inl ⟨rfl, exists_byte_of_all_eq_false hm⟩⟩
    | unwritable hi ha hd => exact ⟨hi, Width.bytes_eq _, aligned_iff.mp ha, .inr (.inl ⟨rfl, exists_byte_of_all_eq_false hd⟩)⟩
    | pushAtZero hi h0 =>
      obtain ⟨hsp, hfaults⟩ := id h0
      refine ⟨by rw [hi]; rfl, .inr (.inr rfl), ?_, .inr (.inr ⟨rfl, hsp, hfaults, _, _, hi, rfl⟩)⟩
      rw [pushBase_toNat_mod_four rfl]
      exact congrArg (fun v => BitVec.toNat v % 4) hsp

end Sys2Proof.Machine
end

section
/-! PROOFS. The edges of a tick and the ticks between them: activation, the end of a period, an idle tick, an active tick (spec 49 R215 to
R219, R223). -/

namespace Sys2Proof.Machine

/-! ### A step by what its transition answers (spec 49 R215) -/

section
variable {s r : State} {c : Nat}

/-- A step of a run that is not over, in a tick that is inactive after its transition. -/
theorem step_of_inactive (he : s.exitFlag = false) (ht : transition s = .ok (r, c)) (hr : r.loop.power = .inactive) :
    step s = .next (closeTick (c + s.params.idleTickCycles) r) := by
  rw [step, loopStep, if_neg (Bool.eq_false_iff.mp he), tick, ht, orFault_ok]
  simp only [hr]

theorem step_of_transition_error {f : Fault} (he : s.exitFlag = false) (ht : transition s = .error f) : step s = .fault f := by
  rw [step, loopStep, if_neg (Bool.eq_false_iff.mp he), tick, ht, orFault_error]

/-! ### The transition by the power state and the answer of `is_active` -/

theorem transition_of_starts (hp : s.loop.power = .inactive) (ha : s.isActive.1 = true) :
    transition s = .ok (activate s.isActive.2) := by
  simp only [transition, hp, ha]

theorem transition_of_staysInactive (hp : s.loop.power = .inactive) (ha : s.isActive.1 = false) :
    transition s = .ok (s.isActive.2, 0) := by
  simp only [transition, hp, ha]

theorem transition_of_staysActive (hp : s.loop.power = .active) (ha : s.isActive.1 = true) :
    transition s = .ok (s.isActive.2, 0) := by
  simp only [transition, hp, ha]

theorem transition_of_ends (hp : s.loop.power = .active) (ha : s.isActive.1 = false) :
    transition s = (deactivate s.isActive.2).map fun r => (r, 0) := by
  simp only [transition, hp, ha]
  cases deactivate s.isActive.2 <;> rfl

end

/-! ### Activation (spec 49 R216) -/

/-- Settles O50: the two activations of `activate_eq`; a later one is a metered restore that opens a period. -/
theorem activation : Obligations.Activation := by
  intro s hp ha
  have ht := transition_of_starts hp ha
  rcases activate_eq s.isActive.2 with ⟨hfirst, h⟩ | ⟨hfirst, h⟩ <;> rw [h] at ht
  · refine ⟨_, _, ht, rfl, rfl, rfl, rfl, rfl, rfl, fun _ => ⟨rfl, rfl, rfl, rfl, rfl, rfl⟩, fun hno => ?_⟩
    cases hfirst.symm.trans hno
  · refine ⟨_, _, ht, rfl, rfl, rfl, rfl, rfl, rfl, fun hyes => ?_, fun _ =>
      ⟨rfl, rfl, rfl, ?_, fun hempty => ?_, fun saved hfull => ?_, rfl, rfl⟩⟩
    · cases hfirst.symm.trans hyes
    · exact State.restore_slot s.isActive.2.useBattery
    · refine (State.restore_cpu s.isActive.2.useBattery).trans ?_
      rw [State.useBattery_scheme_slot, State.isActive_slot, hempty]
      rfl
    · refine (State.restore_cpu s.isActive.2.useBattery).trans ?_
      rw [State.useBattery_scheme_slot, State.isActive_slot, hfull]
      rfl

/-! ### The end of a period (spec 49 R217) -/

section
variable {s : State}

/-- The no-progress count after a period. -/
def State.nextNoProgress (s : State) : Nat := if s.loop.cur.backups = 0 then s.loop.noProgress + 1 else 0

/-- The state after the end of a period: `Finalize` with the estimate, Inactive, the count raised or reset. -/
def State.endPeriod (s : State) : State :=
  (finalizeEstimated (s.isActive.2.setNoProgress s.nextNoProgress)).setPower .inactive

theorem checkProgress_isActive : checkProgress s.isActive.2 = checkProgress s := rfl

theorem deactivate_of_progress (h : s.loop.cur.backups ≠ 0 ∨ s.loop.noProgress + 1 < 5) :
    deactivate s.isActive.2 = .ok s.endPeriod := by
  have hcheck : checkProgress s = .ok s.nextNoProgress := by
    rw [checkProgress, State.nextNoProgress]
    by_cases hb : s.loop.cur.backups = 0
    · rw [if_pos hb, if_pos hb]
      exact if_neg (Nat.not_le.mpr (h.resolve_left (not_not.mpr hb)))
    · rw [if_neg hb, if_neg hb]
  rw [deactivate, checkProgress_isActive, hcheck, State.endPeriod]

theorem deactivate_of_noProgress (hb : s.loop.cur.backups = 0) (h : 5 ≤ s.loop.noProgress + 1) :
    deactivate s.isActive.2 = .error (.noForwardProgress s.loop.periods.length s.loop.elapsed) := by
  have hcheck : checkProgress s = .error (.noForwardProgress s.loop.periods.length s.loop.elapsed) := by
    rw [checkProgress, if_pos hb]
    exact if_pos h
  rw [deactivate, checkProgress_isActive, hcheck]

/-- A tick that ends a period with a backup, or before the fifth without, is idle. -/
theorem step_of_endsPeriod (hs : s.endsPeriod) (h : s.loop.cur.backups ≠ 0 ∨ s.loop.noProgress + 1 < 5) :
    step s = .next (closeTick s.params.idleTickCycles s.endPeriod) := by
  obtain ⟨he, hp, ha⟩ := hs
  have ht : transition s = .ok (s.endPeriod, 0) := by rw [transition_of_ends hp ha, deactivate_of_progress h]; rfl
  rw [step_of_inactive he ht rfl, Nat.zero_add]

/-- A tick that ends the fifth period without a backup is fatal. -/
theorem step_of_endsPeriod_fatal (hs : s.endsPeriod) (hb : s.loop.cur.backups = 0) (h : 5 ≤ s.loop.noProgress + 1) :
    step s = .fault (.noForwardProgress s.loop.periods.length s.loop.elapsed) := by
  obtain ⟨he, hp, ha⟩ := hs
  exact step_of_transition_error he (by rw [transition_of_ends hp ha, deactivate_of_noProgress hb h]; rfl)

end

/-- Settles O51: CheckProgress by its cases, then the idle tick after the end of the period. -/
theorem deactivation : Obligations.Deactivation := by
  rintro s total he hp ha rfl
  refine ⟨fun hb h5 => step_of_endsPeriod_fatal ⟨he, hp, ha⟩ hb h5, fun h => ?_⟩
  have hexit : ¬s.endPeriod.exitFlag = true := Bool.eq_false_iff.mp he
  refine ⟨_, s.loop.cur.total s.num, step_of_endsPeriod ⟨he, hp, ha⟩ h, closeTick_power _ _, closeTick_cpu _ _, closeTick_mem _ _, ?_,
    closeTick_noProgress _ _, closeTick_elapsed _ _, closeTick_finished _ _, rfl, ?_⟩
  · rw [closeTick_slot, if_neg hexit]
    rfl
  · rw [closeTick_cur, if_neg hexit]
    rfl

/-! ### An idle tick (spec 49 R219) -/

/-- Settles O53: the transition only asks `is_active`, and the end of a tick touches none of the fields named. -/
theorem idleTick : Obligations.IdleTick := by
  intro s he hp ha
  have hexit : ¬s.isActive.2.exitFlag = true := Bool.eq_false_iff.mp he
  refine ⟨_, step_of_inactive he (transition_of_staysInactive hp ha) hp, closeTick_cpu _ _, closeTick_mem _ _, ?slot,
    (closeTick_exitFlag _ _).trans he, (closeTick_power _ _).trans hp, closeTick_first _ _, ?periods, closeTick_noProgress _ _, ?elapsed⟩
  case slot => rw [closeTick_slot, if_neg hexit, State.isActive_slot]
  case periods => rw [Loop.periods, closeTick_finished, closeTick_cur, if_neg hexit, State.isActive_loop, Loop.periods]
  case elapsed => rw [closeTick_elapsed, State.isActive_loop, Nat.zero_add]

/-! ### A run by its first tick (spec 49 R223 to R226) -/

section
variable {s t : State}

theorem runTicks_of_exit (he : s.exitFlag = true) (n : Nat) : runTicks n s = .completed s := by
  cases n <;> exact if_pos he

theorem tick_eq_step (he : s.exitFlag = false) : tick s = step s := (if_neg (Bool.eq_false_iff.mp he)).symm

theorem runTicks_succ_of_next (he : s.exitFlag = false) (h : step s = .next t) (n : Nat) : runTicks (n + 1) s = runTicks n t := by
  rw [runTicks, if_neg (Bool.eq_false_iff.mp he), tick_eq_step he, h]

theorem runTicks_succ_of_fault {f : Fault} (he : s.exitFlag = false) (h : step s = .fault f) (n : Nat) :
    runTicks (n + 1) s = .fatal f := by
  rw [runTicks, if_neg (Bool.eq_false_iff.mp he), tick_eq_step he, h]

end

/-! ### An active tick (spec 49 R218, R223) -/

/-- What a finalization leaves of a period: all but its totals. -/
structure Period.SameCounts (p q : Period) : Prop where
  cycleStart : q.cycleStart = p.cycleStart
  instructions : q.instructions = p.instructions
  instructionCycles : q.instructionCycles = p.instructionCycles
  backups : q.backups = p.backups
  backupCycles : q.backupCycles = p.backupCycles
  restoreCycles : q.restoreCycles = p.restoreCycles
  energyInstructions : q.energyInstructions = p.energyInstructions
  energyBackup : q.energyBackup = p.energyBackup
  energyRestore : q.energyRestore = p.energyRestore
  fpEnergy : q.fpEnergy = p.fpEnergy
  fpCycles : q.fpCycles = p.fpCycles

theorem closeTick_sameCounts (tc : Nat) (s : State) : s.loop.cur.SameCounts (closeTick tc s).loop.cur := by
  rw [closeTick_cur]
  split <;> exact ⟨rfl, rfl, rfl, rfl, rfl, rfl, rfl, rfl, rfl, rfl, rfl⟩

/-- What is the instruction's alone in the accounting of a tick, and what is left to finalization. -/
structure Period.InstrCounts (p a q : Period) : Prop where
  cycleStart : q.cycleStart = p.cycleStart
  instructions : q.instructions = a.instructions
  instructionCycles : q.instructionCycles = a.instructionCycles
  energyInstructions : q.energyInstructions = a.energyInstructions
  restoreCycles : q.restoreCycles = p.restoreCycles
  energyRestore : q.energyRestore = p.energyRestore
  energyTotal : q.energyTotal = p.energyTotal
  progress : q.progress = p.progress
  estimatedProgress : q.estimatedProgress = p.estimatedProgress

section
variable {s u : State}

theorem retire_instrCounts (tc : Nat) (u : State) :
    u.loop.cur.InstrCounts (accountInstr u).loop.cur (retire tc u).1.loop.cur := by
  rcases retire_eq tc u with ⟨-, h⟩ | ⟨-, h⟩ <;> rw [h] <;> exact ⟨rfl, rfl, rfl, rfl, rfl, rfl, rfl, rfl, rfl⟩

/-- Without a backup the accounting leaves what the period has of backups. -/
theorem retire_of_noBackup {tc : Nat} (hb : (accountInstr u).willBackup.1 = false) :
    (retire tc u).1.loop.cur.backups = u.loop.cur.backups ∧
      (retire tc u).1.loop.cur.backupCycles = u.loop.cur.backupCycles ∧
      (retire tc u).1.loop.cur.energyBackup = u.loop.cur.energyBackup ∧
      (retire tc u).1.loop.cur.fpEnergy = u.loop.cur.fpEnergy ∧
      (retire tc u).1.loop.cur.fpCycles = u.loop.cur.fpCycles := by
  rcases retire_eq tc u with ⟨-, h⟩ | ⟨hb', -⟩
  · rw [h]
    exact ⟨rfl, rfl, rfl, rfl, rfl⟩
  · cases hb.symm.trans hb'

/-- With a backup the period gets its cycles, the energy it removed and the forward-progress snapshot. -/
theorem retire_of_backup (hb : (accountInstr u).willBackup.1 = true) :
    (retire 0 u).1.loop.cur.backups = u.loop.cur.backups + 1 ∧
      (retire 0 u).1.loop.cur.backupCycles =
        u.loop.cur.backupCycles + (accountInstr u).willBackup.2.useBattery.backup.1 ∧
      (retire 0 u).1.loop.cur.energyBackup = u.num.add u.loop.cur.energyBackup
        (u.num.sub (accountInstr u).battery.stored (accountInstr u).willBackup.2.useBattery.backup.2.battery.stored) ∧
      (retire 0 u).1.loop.cur.fpEnergy = (retire 0 u).1.loop.cur.energyInstructions ∧
      (retire 0 u).1.loop.cur.fpCycles =
        u.loop.elapsed + (u.stepCycles + (accountInstr u).willBackup.2.useBattery.backup.1) - u.loop.cur.cycleStart := by
  rcases retire_eq 0 u with ⟨hb', -⟩ | ⟨-, h⟩
  · cases hb.symm.trans hb'
  · rw [h, Nat.zero_add]
    exact ⟨rfl, rfl, rfl, rfl, rfl⟩

/-- The cycles of the backup of an active tick and the state after it, if there is one; its account is not yet in the period. -/
def afterBackup (w : State) (b : Bool) : Nat × State :=
  if b then (w.useBattery.backup.1, w.useBattery.backup.2.useBattery) else (0, w)

theorem retire_eq_afterBackup (u : State) : retire 0 u =
    ((afterBackup (accountInstr u).willBackup.2 (accountInstr u).willBackup.1).2.setCur (retire 0 u).1.loop.cur,
      u.stepCycles + (afterBackup (accountInstr u).willBackup.2 (accountInstr u).willBackup.1).1) := by
  rcases retire_eq 0 u with ⟨hb, h⟩ | ⟨hb, h⟩ <;> rw [h, hb, Nat.zero_add] <;> rfl

/-- The instruction's energy is what `execute_instruction` removed from the battery, which the CPU step left alone. -/
theorem accountInstr_of_cpuStep (h : cpuStep s.isActive.2 = .next u) :
    accountInstr u = u.useBattery.executeInstruction.useBattery.setCur { s.loop.cur with
      instructions := s.loop.cur.instructions + 1
      instructionCycles := s.loop.cur.instructionCycles + u.stepCycles
      energyInstructions := s.num.add s.loop.cur.energyInstructions
        (s.num.sub s.battery.stored u.useBattery.executeInstruction.useBattery.battery.stored) } := by
  obtain ⟨-, hbattery, -, hloop, hparams⟩ := (CoreStep.cpuStep h).loopSide
  have hnum : u.num = s.num := congrArg Config.Params.num hparams
  have hstored : u.battery.stored = s.battery.stored := congrArg Battery.stored hbattery
  have hcur : u.loop.cur = s.loop.cur := congrArg Loop.cur hloop
  rw [← hnum, ← hstored, ← hcur]
  rfl

end

/-- Settles O52: an active tick is the CPU step, `retire` and `closeTick`; the fields of the period come from `retire`, and the end of the
tick leaves all of them but the totals. -/
theorem activeTick : Obligations.ActiveTick := by
  rintro s u v a w z cb tc he hp hact hu rfl ha rfl hcz rfl
  rw [← accountInstr_of_cpuStep hu] at ha
  subst ha
  obtain ⟨hscheme, -, -, hloop, hparams⟩ := (CoreStep.cpuStep hu).loopSide
  have hnum : u.num = s.num := congrArg Config.Params.num hparams
  have hr := retire_eq_afterBackup u
  rw [show afterBackup _ _ = (cb, z) from hcz.symm] at hr
  have hstep : step s = .next (closeTick (u.stepCycles + cb) (retire 0 u).1) := by
    rw [step_of_active he (transition_of_staysActive hp hact) hp, hu, andThen_next, congrArg Prod.snd hr]
  have hrloop : (retire 0 u).1.loop = { s.loop with cur := (retire 0 u).1.loop.cur } := by rw [retire_loop, hloop]; rfl
  have huntouched : Untouched u (retire 0 u).1 := .retire
  have hz : (retire 0 u).1 = z.setCur (retire 0 u).1.loop.cur := congrArg Prod.fst hr
  have hends := closeTick_sameCounts (u.stepCycles + cb) (retire 0 u).1
  obtain ⟨hstart, hinstr, hicycles, hienergy, hrcycles, hrenergy, htotal, hprogress, hestimate⟩ := retire_instrCounts 0 u
  rw [hloop] at hstart hrcycles hrenergy htotal hprogress hestimate
  refine ⟨_, hstep, (closeTick_cpu _ _).trans (retire_cpu 0 u), (closeTick_mem _ _).trans huntouched.mem,
    (closeTick_exitFlag _ _).trans huntouched.exitFlag, ?power, ?elapsed, ?finished, ?noProgress, hends.cycleStart.trans hstart,
    hends.instructions.trans hinstr, hends.instructionCycles.trans hicycles, hends.energyInstructions.trans hienergy,
    hends.restoreCycles.trans hrcycles, hends.energyRestore.trans hrenergy, fun hb => ?noBackup, fun hb => ?backup, fun hno => ?battery,
    ?memo, fun hexit => ?running, fun hexit => ?exits⟩
  case power => rw [closeTick_power, hrloop]; exact hp
  case elapsed => rw [closeTick_elapsed, hrloop]
  case finished => rw [closeTick_finished, hrloop]
  case noProgress => rw [closeTick_noProgress, hrloop]
  case noBackup =>
    obtain ⟨hn, hcycles, henergy, hfp, hfpCycles⟩ := retire_of_noBackup hb
    rw [hloop] at hn hcycles henergy hfp hfpCycles
    exact ⟨hends.backups.trans hn, hends.backupCycles.trans hcycles, hends.energyBackup.trans henergy, hends.fpEnergy.trans hfp,
      hends.fpCycles.trans hfpCycles⟩
  case backup =>
    obtain ⟨hn, hcycles, henergy, hfp, hfpCycles⟩ := retire_of_backup hb
    rw [hb] at hcz
    obtain ⟨rfl, rfl⟩ := Prod.mk.inj hcz
    rw [hloop] at hn hcycles henergy hfpCycles
    rw [hnum] at henergy
    refine ⟨hends.backups.trans hn, hends.backupCycles.trans hcycles, hends.energyBackup.trans henergy,
      hends.fpEnergy.trans (hfp.trans hends.energyInstructions.symm), ?_⟩
    rw [hends.fpCycles, hfpCycles, closeTick_elapsed, hrloop]
    rfl
  case battery =>
    have hnot : ¬harvests (retire 0 u).1 := by
      rw [harvests, hrloop, huntouched.params, hparams]
      exact not_or.mpr ⟨(fun hi => by cases hp.symm.trans hi), Bool.eq_false_iff.mp hno⟩
    rw [closeTick_battery, if_neg hnot, hz, State.setCur_battery]
  case memo => rw [closeTick_memo, hz, memoAtEnd_setCur, ← hz]
  case running =>
    have hexit' : ¬(retire 0 u).1.exitFlag = true := by rw [huntouched.exitFlag, hexit]; decide
    rw [closeTick_finalEnergyStored, closeTick_slot, closeTick_cur, if_neg hexit', if_neg hexit', if_neg hexit', hrloop, retire_slot,
      hscheme]
    exact ⟨rfl, rfl, htotal, hprogress, hestimate⟩
  case exits =>
    have hexit' : (retire 0 u).1.exitFlag = true := huntouched.exitFlag.trans hexit
    have hnum : (retire 0 u).1.num = s.num := congrArg Config.Params.num (huntouched.params.trans hparams)
    rw [closeTick_finalEnergyStored, closeTick_cur, if_pos hexit', if_pos hexit', hnum]
    exact ⟨rfl, rfl, rfl, rfl, fun n => by
      rw [runTicks_succ_of_next he hstep]
      exact runTicks_of_exit ((closeTick_exitFlag _ _).trans hexit') n⟩

end Sys2Proof.Machine
end

section
/-! PROOFS. Forward progress (spec 49 R217, R228): one step, then runs of any length. -/

namespace Sys2Proof.Machine

/-! ### NoForwardProgress is raised by the end of a period only (spec 49 R217) -/

section
variable {s t : State}

theorem fetchHalf_eq_error {addr : Word} {f : Fault} (h : fetchHalf s addr = .error f) : f = .memoryFault addr 2 .fetch := by
  unfold fetchHalf at h
  split at h
  · cases h; rfl
  · cases h

theorem fetch_ne_noForwardProgress (p e : Nat) : fetch s ≠ .error (.noForwardProgress p e) := by
  intro h
  unfold fetch at h
  split at h
  · rename_i hf
    cases h
    cases fetchHalf_eq_error hf
  · split at h
    · split at h
      · rename_i hf
        cases h
        cases fetchHalf_eq_error hf
      · cases h
    · cases h

theorem cpuStep_ne_noForwardProgress (p e : Nat) : cpuStep s ≠ .fault (.noForwardProgress p e) := by
  intro h
  cases hs : s.cpu.pcReg.getLsbD 0 with
  | false => rw [cpuStep_of_notThumb hs] at h; cases h
  | true =>
    rw [cpuStep_of_thumb hs] at h
    obtain hf | ⟨w, -, h⟩ := orFault_eq_fault.mp h
    · exact fetch_ne_noForwardProgress p e hf
    · split at h
      · rename_i i _
        obtain hexec | ⟨u, -, h⟩ := andThen_eq_fault.mp h
        · exact (faultCauses i _).2 _ hexec
        · cases h
      · cases h

/-- What a step that raises NoForwardProgress says of its state. -/
theorem step_eq_noForwardProgress {p e : Nat} (h : step s = .fault (.noForwardProgress p e)) :
    s.endsPeriod ∧ s.loop.cur.backups = 0 ∧ 5 ≤ s.loop.noProgress + 1 ∧ p = s.loop.periods.length ∧ e = s.loop.elapsed := by
  unfold step loopStep at h
  split at h
  · cases h
  · rename_i he
    obtain ht | ⟨⟨r, c⟩, -, h⟩ := orFault_eq_fault.mp h
    · obtain ⟨hp, ha, hb, hlimit, hf⟩ := transition_eq_error ht
      cases hf
      exact ⟨⟨Bool.eq_false_iff.mpr he, hp, ha⟩, hb, hlimit, rfl, rfl⟩
    · dsimp only at h
      split at h
      · obtain hcpu | ⟨u, -, h⟩ := andThen_eq_fault.mp h
        · exact absurd hcpu (cpuStep_ne_noForwardProgress p e)
        · cases h
      · cases h

end

/-! ### The count over one step -/

section
variable {s t : State}

/-- A step leaves the no-progress count alone but where it ends a period. -/
theorem step_noProgress (h : step s = .next t) :
    t.loop.noProgress = s.loop.noProgress ∨ (s.endsPeriod ∧ t.loop.noProgress = s.nextNoProgress) := by
  by_cases hs : s.endsPeriod
  · right
    refine ⟨hs, ?_⟩
    by_cases hgo : s.loop.cur.backups ≠ 0 ∨ s.loop.noProgress + 1 < 5
    · rw [step_of_endsPeriod hs hgo] at h
      cases h
      exact closeTick_noProgress _ _
    · obtain ⟨hb, hlimit⟩ := not_or.mp hgo
      rw [step_of_endsPeriod_fatal hs (not_not.mp hb) (Nat.le_of_not_lt hlimit)] at h
      cases h
  · left
    rcases step_eq_next h with ⟨-, rfl⟩ | ⟨he, r, c, hr, hrest⟩
    · rfl
    have hkept : r.loop.noProgress = s.loop.noProgress := by
      rcases transition_eq_ok hr with ⟨-, -, h⟩ | ⟨-, -, rfl, -⟩ | ⟨-, -, rfl, -⟩ | ⟨hp, ha, -, -⟩
      · obtain rfl : r = (activate s.isActive.2).1 := congrArg Prod.fst h
        rcases activate_eq s.isActive.2 with ⟨-, h⟩ | ⟨-, h⟩ <;> rw [h] <;> rfl
      · rfl
      · rfl
      · exact absurd ⟨he, hp, ha⟩ hs
    rcases hrest with ⟨-, u, hu, rfl⟩ | ⟨-, rfl⟩
    · rw [closeTick_noProgress, retire_loop, (CoreStep.cpuStep hu).loopSide.2.2.2.1, hkept]
    · rw [closeTick_noProgress, hkept]

/-- Where every period that ends has a backup, a count of 0 stays 0. -/
theorem step_noProgress_eq_zero (h : step s = .next t) (h0 : s.loop.noProgress = 0)
    (hb : s.endsPeriod → s.loop.cur.backups ≠ 0) : t.loop.noProgress = 0 := by
  obtain hkept | ⟨hs, hnext⟩ := step_noProgress h
  · rw [hkept, h0]
  · rw [hnext, State.nextNoProgress, if_neg (hb hs)]

end

/-! ### A scheme that never backs up (spec 49 R228) -/

section
variable {s t : State}

theorem length_periods (l : Loop) : l.periods.length = l.finished.length + 1 := by simp [Loop.periods]

/-- `State.Unbacked` reads these fields only. -/
theorem State.Unbacked.of_eq (hs : s.Unbacked) (hpolicy : t.scheme.policy = s.scheme.policy)
    (hbackups : t.loop.cur.backups = s.loop.cur.backups) (hpower : t.loop.power = s.loop.power) (hfirst : t.loop.first = s.loop.first)
    (hcount : t.loop.noProgress = s.loop.noProgress) (hfinished : t.loop.finished = s.loop.finished) : t.Unbacked := by
  have hlength : t.loop.periods.length = s.loop.periods.length := by rw [length_periods, length_periods, hfinished]
  constructor
  case never => rw [hpolicy]; exact hs.never
  case noBackup => rw [hbackups]; exact hs.noBackup
  case limit => rw [hcount]; exact hs.limit
  case active => rw [hpower, hfirst, hcount, hlength]; exact hs.active
  case ended => rw [hpower, hfirst, hcount, hlength]; exact hs.ended
  case unstarted => rw [hpower, hfirst, hcount, hlength]; exact hs.unstarted

/-- The first activation uses the one record there is; a later one opens one more (spec 49 R216). -/
theorem State.Unbacked.activate (hs : s.Unbacked) (hp : s.loop.power = .inactive) : (activate s).1.Unbacked := by
  rcases activate_eq s with ⟨hfirst, h⟩ | ⟨hfirst, h⟩ <;> rw [h]
  · obtain ⟨hcount, hlength⟩ := hs.unstarted hp hfirst
    have hsame : s.startPeriod.loop.periods.length = s.loop.periods.length := by rw [length_periods, length_periods]; rfl
    refine ⟨hs.never, hs.noBackup, hs.limit, fun _ => ⟨rfl, ?_⟩, nofun, nofun⟩
    rw [hsame, hlength]
    exact congrArg (· + 1) hcount
  · have hmore : (reactivate s).1.startPeriod.loop.periods.length = s.loop.periods.length + 1 := length_periods _
    refine ⟨?_, rfl, hs.limit, fun _ => ⟨rfl, ?_⟩, nofun, nofun⟩
    · rw [show (reactivate s).1.startPeriod.scheme.policy = s.scheme.policy from Untouched.reactivate.policy]
      exact hs.never
    · rw [hmore]
      exact congrArg (· + 1) (hs.ended hp hfirst)

/-- The end of a period without a backup brings the count up to the number of periods (spec 49 R217). -/
theorem State.Unbacked.deactivate (hs : s.Unbacked) (hp : s.loop.power = .active) (h : deactivate s = .ok t) : t.Unbacked := by
  obtain ⟨hfirst, hcount⟩ := hs.active hp
  obtain ⟨n, rfl, ⟨-, rfl, hlimit⟩ | ⟨hb, -⟩⟩ := deactivate_eq_ok h
  · refine ⟨hs.never, hs.noBackup, hlimit, nofun, fun _ _ => ?_, fun _ hyes => ?_⟩
    · rw [length_periods] at hcount ⊢
      exact hcount
    · cases hfirst.symm.trans hyes
  · exact absurd hs.noBackup hb

theorem State.Unbacked.transition {c : Nat} (hs : s.Unbacked) (h : transition s = .ok (t, c)) : t.Unbacked := by
  have hasked : s.isActive.2.Unbacked := hs.of_eq rfl rfl rfl rfl rfl rfl
  rcases transition_eq_ok h with ⟨hp, -, h⟩ | ⟨-, -, rfl, -⟩ | ⟨-, -, rfl, -⟩ | ⟨hp, -, h, -⟩
  · obtain rfl : t = (Machine.activate s.isActive.2).1 := congrArg Prod.fst h
    exact hasked.activate hp
  · exact hasked
  · exact hasked
  · exact hasked.deactivate hp h

theorem State.Unbacked.cpuStep (hs : s.Unbacked) (h : cpuStep s = .next t) : t.Unbacked := by
  obtain ⟨hscheme, -, -, hloop, -⟩ := (CoreStep.cpuStep h).loopSide
  exact hs.of_eq (by rw [hscheme]) (by rw [hloop]) (by rw [hloop]) (by rw [hloop]) (by rw [hloop]) (by rw [hloop])

/-- The accounting of an active tick asks `will_backup`, which answers no. -/
theorem State.Unbacked.retire (hs : s.Unbacked) (tc : Nat) : (retire tc s).1.Unbacked := by
  have hno : (accountInstr s).willBackup.1 = false := hs.never _ _ _
  have hloop := retire_loop tc s
  refine hs.of_eq Untouched.retire.policy ?_ (by rw [hloop]) (by rw [hloop]) (by rw [hloop]) (by rw [hloop])
  rw [retire_backups, hno]
  rfl

theorem State.Unbacked.closeTick (hs : s.Unbacked) (tc : Nat) : (closeTick tc s).Unbacked :=
  hs.of_eq (closeTick_policy _ _) (closeTick_sameCounts tc s).backups (closeTick_power _ _) (closeTick_first _ _)
    (closeTick_noProgress _ _) (closeTick_finished _ _)

theorem State.Unbacked.step (hs : s.Unbacked) (h : step s = .next t) : t.Unbacked := by
  rcases step_eq_next h with ⟨-, rfl⟩ | ⟨-, r, c, hr, ⟨-, u, hu, rfl⟩ | ⟨-, rfl⟩⟩
  · exact hs
  · exact (((hs.transition hr).cpuStep hu).retire c).closeTick _
  · exact (hs.transition hr).closeTick _

theorem State.Unbacked.length_le (hs : s.Unbacked) : s.loop.periods.length ≤ 5 := by
  have hlimit : s.loop.noProgress < 5 := hs.limit
  cases hp : s.loop.power with
  | active =>
    obtain ⟨-, hcount⟩ := hs.active hp
    omega
  | inactive =>
    cases hfirst : s.loop.first with
    | true => have hcount := (hs.unstarted hp hfirst).2; omega
    | false => have hcount := hs.ended hp hfirst; omega

/-- Before the fifth period a tick that ends one goes on, with the count at the number of periods. -/
theorem State.Unbacked.step_of_endsPeriod (hs : s.Unbacked) (he : s.endsPeriod) (h : s.loop.periods.length < 5) :
    ∃ t, Machine.step s = .next t ∧ t.loop.noProgress = s.loop.periods.length := by
  obtain ⟨-, hcount⟩ := hs.active he.2.1
  refine ⟨_, Machine.step_of_endsPeriod he (.inr (by omega)), (closeTick_noProgress _ _).trans ?_⟩
  exact (if_pos hs.noBackup).trans hcount

/-- The end of the fifth period is fatal. -/
theorem State.Unbacked.step_of_endsPeriod_fatal (hs : s.Unbacked) (he : s.endsPeriod) (h : s.loop.periods.length = 5) :
    Machine.step s = .fault (.noForwardProgress 5 s.loop.elapsed) := by
  obtain ⟨-, hcount⟩ := hs.active he.2.1
  rw [Machine.step_of_endsPeriod_fatal he hs.noBackup (by omega), h]

/-- No other number of periods is fatal. -/
theorem State.Unbacked.periods_of_noForwardProgress (hs : s.Unbacked) {p e : Nat}
    (h : Machine.step s = .fault (.noForwardProgress p e)) : p = 5 := by
  obtain ⟨⟨-, hp, -⟩, -, hlimit, rfl, -⟩ := step_eq_noForwardProgress h
  obtain ⟨-, hcount⟩ := hs.active hp
  have hle := hs.length_le
  omega

theorem unbacked_initLoop (h : s.scheme.policy.NeverBacksUp) : (initLoop s).Unbacked :=
  ⟨h, rfl, Nat.zero_lt_succ 4, nofun, nofun, fun _ _ => ⟨rfl, rfl⟩⟩

end

/-! ### A scheme that backs up in every period (spec 49 R228) -/

section
variable {s t : State}

theorem backed_initLoop (h : s.scheme.policy.AlwaysBacksUp) : (initLoop s).Backed := ⟨h, nofun⟩

/-- Every active tick backs up, so an active state has a backup in its period. -/
theorem State.Backed.step (hs : s.Backed) (h : step s = .next t) : t.Backed := by
  rcases step_eq_next h with ⟨-, rfl⟩ | ⟨-, r, c, hr, ⟨-, u, hu, rfl⟩ | ⟨hp, rfl⟩⟩
  · exact hs
  · have hpolicy : u.scheme.policy = s.scheme.policy := by
      rw [(CoreStep.cpuStep hu).loopSide.1]; exact (Untouched.transition hr).policy
    have halways : u.scheme.policy.AlwaysBacksUp := hpolicy ▸ hs.always
    have hyes : (accountInstr u).willBackup.1 = true := halways _ _ _
    constructor
    · rw [closeTick_policy, Untouched.retire.policy, hpolicy]
      exact hs.always
    · intro _
      rw [(closeTick_sameCounts _ _).backups, retire_backups, hyes]
      exact Nat.succ_ne_zero _
  · constructor
    · rw [closeTick_policy, (Untouched.transition hr).policy]
      exact hs.always
    · intro ha
      rw [closeTick_power, hp] at ha
      cases ha

end

/-- Settles O57: `State.Unbacked` and `State.Backed` are kept by every part of a tick; with the count they name, CheckProgress gives
the rest. -/
theorem forwardProgressCounts : Obligations.ForwardProgressCounts :=
  ⟨fun _ => unbacked_initLoop, fun _ => backed_initLoop,
    fun _ _ h => ⟨fun hs => hs.step h, fun hs => hs.step h, step_noProgress_eq_zero h⟩,
    fun _ hs => ⟨hs.length_le, hs.step_of_endsPeriod, hs.step_of_endsPeriod_fatal, fun _ _ => hs.periods_of_noForwardProgress⟩,
    fun _ hb _ _ h => by
      obtain ⟨he, hnone, -⟩ := step_eq_noForwardProgress h
      exact hb he hnone,
    fun _ hs he => hs.backup he.2.1⟩

/-! ### Runs of any length (spec 49 R224, R226) -/

section
variable {s t : State} {n : Nat}

theorem runTicks_zero_eq_boundReached (h : runTicks 0 s = .boundReached t) : t = s := by
  rw [runTicks] at h
  split at h <;> cases h
  rfl

/-- What the first tick of a run can do (spec 49 R224). -/
theorem runTicks_succ_eq (s : State) (n : Nat) :
    runTicks (n + 1) s = .completed s ∨ (∃ r, runTicks (n + 1) s = .refused r) ∨
      (s.exitFlag = false ∧
        ((∃ u, step s = .next u ∧ runTicks (n + 1) s = runTicks n u) ∨ ∃ f, step s = .fault f ∧ runTicks (n + 1) s = .fatal f)) := by
  cases he : s.exitFlag with
  | true => exact .inl (runTicks_of_exit he _)
  | false =>
    cases hs : step s with
    | next u => exact .inr (.inr ⟨rfl, .inl ⟨u, rfl, runTicks_succ_of_next he hs n⟩⟩)
    | fault f => exact .inr (.inr ⟨rfl, .inr ⟨f, rfl, runTicks_succ_of_fault he hs n⟩⟩)
    | refused r => exact .inr (.inl ⟨r, by rw [runTicks, if_neg (Bool.eq_false_iff.mp he), tick_eq_step he, hs]⟩)

theorem runTicks_zero (he : s.exitFlag = false) : runTicks 0 s = .boundReached s := if_neg (Bool.eq_false_iff.mp he)

/-- A run reaches its next bound by one more step from the state it reached. -/
theorem exists_last_step (h : runTicks (n + 1) s = .boundReached t) :
    ∃ u, runTicks n s = .boundReached u ∧ step u = .next t := by
  induction n generalizing s with
  | zero =>
    obtain hc | ⟨r, hc⟩ | ⟨he, ⟨u, hu, hc⟩ | ⟨f, -, hc⟩⟩ := runTicks_succ_eq s 0 <;> rw [hc] at h
    case inr.inr.inl =>
      obtain rfl := runTicks_zero_eq_boundReached h
      exact ⟨s, runTicks_zero he, hu⟩
    all_goals cases h
  | succ n ih =>
    obtain hc | ⟨r, hc⟩ | ⟨he, ⟨u, hu, hc⟩ | ⟨f, -, hc⟩⟩ := runTicks_succ_eq s (n + 1) <;> rw [hc] at h
    case inr.inr.inl =>
      obtain ⟨v, hv, hstep⟩ := ih h
      exact ⟨v, (runTicks_succ_of_next he hu n).trans hv, hstep⟩
    all_goals cases h

/-- A run that ends with a fatal condition reaches the state whose step raises it. -/
theorem exists_fault_of_fatal {f : Fault} (h : runTicks n s = .fatal f) :
    ∃ k < n, ∃ u, runTicks k s = .boundReached u ∧ step u = .fault f := by
  induction n generalizing s with
  | zero =>
    rw [runTicks] at h
    split at h <;> cases h
  | succ n ih =>
    obtain hc | ⟨r, hc⟩ | ⟨he, ⟨u, hu, hc⟩ | ⟨f', hf, hc⟩⟩ := runTicks_succ_eq s n <;> rw [hc] at h
    case inr.inr.inl =>
      obtain ⟨k, hk, v, hv, hstep⟩ := ih h
      exact ⟨k + 1, Nat.succ_lt_succ hk, v, (runTicks_succ_of_next he hu k).trans hv, hstep⟩
    case inr.inr.inr =>
      cases h
      exact ⟨0, Nat.succ_pos n, s, runTicks_zero he, hf⟩
    all_goals cases h

/-- What holds at the start of a run, and is kept by every step from a state it reaches, holds of the state at its bound. -/
theorem runTicks_induction {P : State → Prop} (h0 : P s)
    (hstep : ∀ k u v, k < n → runTicks k s = .boundReached u → P u → step u = .next v → P v) (h : runTicks n s = .boundReached t) :
    P t := by
  induction n generalizing t with
  | zero => rw [runTicks_zero_eq_boundReached h]; exact h0
  | succ n ih =>
    obtain ⟨u, hu, hlast⟩ := exists_last_step h
    exact hstep n u t n.lt_succ_self hu (ih (fun k u v hk => hstep k u v (hk.trans n.lt_succ_self)) hu) hlast

/-- A run under a scheme that never backs up stays in `State.Unbacked`. -/
theorem unbacked_of_runTicks (hn : s.scheme.policy.NeverBacksUp) (h : runTicks n (initLoop s) = .boundReached t) : t.Unbacked :=
  runTicks_induction (unbacked_initLoop hn) (fun _ _ _ _ _ hu hstep => hu.step hstep) h

theorem backed_of_runTicks (ha : s.scheme.policy.AlwaysBacksUp) (h : runTicks n (initLoop s) = .boundReached t) : t.Backed :=
  runTicks_induction (backed_initLoop ha) (fun _ _ _ _ _ hu hstep => hu.step hstep) h

end

/-- Settles O58: the two invariants of a step along a run, whose fatal step starts from a state that it reaches. -/
theorem forwardProgressLiveness : Obligations.ForwardProgressLiveness := by
  intro s n _
  refine ⟨fun hn => ⟨fun p e h => ?five, fun t h => ?reached⟩, fun hb => ⟨fun p e h => ?never, fun t h => ?zero⟩,
    fun ha t h => (backed_of_runTicks ha h).backup⟩
  case five =>
    obtain ⟨k, -, u, hu, hstep⟩ := exists_fault_of_fatal h
    exact (unbacked_of_runTicks hn hu).periods_of_noForwardProgress hstep
  case reached =>
    have ht := unbacked_of_runTicks hn h
    exact ⟨ht.length_le, fun hp => (ht.active hp).2, ht.ended, ht.step_of_endsPeriod_fatal⟩
  case never =>
    obtain ⟨k, hk, u, hu, hstep⟩ := exists_fault_of_fatal h
    obtain ⟨he, hnone, -⟩ := step_eq_noForwardProgress hstep
    exact hb k u hk.le hu he hnone
  case zero =>
    exact runTicks_induction (P := fun u => u.loop.noProgress = 0) rfl
      (fun k u v hk hu h0 hstep => step_noProgress_eq_zero hstep h0 (hb k u hk.le hu)) h

end Sys2Proof.Machine
end

section
/-! PROOFS. The image load and the boot (spec 20 R50, 70 R249, R253, R254, 49 R214). -/

namespace Sys2Proof.Machine

/-! ### The initial memory (spec 20 R50, 70 R249) -/

/-- Cells read as the bytes they list, each at its address. -/
theorem cellsFrom_read (bytes : Nat → Byte) (base count : Nat) {a : Nat} (hlow : base ≤ a) (hhigh : a < base + count) :
    (cellsFrom bytes base count).read a = bytes a := by
  induction count generalizing base with
  | zero => omega
  | succ n ih =>
    have habove : ∀ c ∈ cellsFrom bytes (base + 1) n, base < c.1 := fun c hc => (cellsFrom_range _ _ _ hc).1
    obtain rfl | hlt := Nat.eq_or_lt_of_le hlow
    · rw [cellsFrom]
      split
      · rename_i hb
        rw [hb]
        exact Memory.read_eq_unlisted _ _ habove
      · rw [Memory.read, if_neg (Nat.lt_irrefl _), if_pos rfl]
    · have hrest := ih (base + 1) hlt (by omega)
      rw [cellsFrom]
      split
      · exact hrest
      · rw [Memory.read, if_neg hlow.not_gt, if_neg hlt.ne', hrest]

section
variable {m n : Memory} {a : Nat}

/-- Below the first address of the second part, the first part is read. -/
theorem Memory.read_append_left (h : ∀ c ∈ n, a < c.1) : Memory.read (m ++ n) a = m.read a := by
  induction m with
  | nil => exact Memory.read_eq_unlisted n a h
  | cons c m ih => simp only [List.cons_append, Memory.read, ih]

/-- Above the addresses of the first part, the second part is read. -/
theorem Memory.read_append_right (h : ∀ c ∈ m, c.1 < a) : Memory.read (m ++ n) a = n.read a := by
  induction m with
  | nil => rfl
  | cons c m ih =>
    obtain ⟨hc, hm⟩ := List.forall_mem_cons.mp h
    simp only [List.cons_append, Memory.read]
    rw [if_neg hc.not_gt, if_neg hc.ne', ih hm]

end

section
variable {p : Config.Params} (hp : p.legal) (image : List Byte) (romFill ramInit : Nat → Byte) {k : Nat}
include hp

/-- The program region holds the image, then ROM_FILL. -/
theorem imageMemory_read_program (hk : k < p.romSize) :
    (imageMemory p image romFill ramInit).read k = image.getD k (romFill k) := by
  obtain ⟨-, -, hrom, -⟩ := hp
  rw [imageMemory, Memory.read_append_left fun c hc => ?_]
  · exact cellsFrom_read _ Config.romBase p.romSize (Nat.zero_le k) (by rw [Config.romBase]; omega)
  · exact (hk.trans_le hrom).trans_le (cellsFrom_range _ _ _ hc).1

/-- The data region holds RAM_INIT. -/
theorem imageMemory_read_data (hk : k < p.ramSize) :
    (imageMemory p image romFill ramInit).read (0x20000000 + k) = ramInit k := by
  obtain ⟨-, -, hrom, -⟩ := hp
  rw [imageMemory, Memory.read_append_right fun c hc => ?_]
  · refine (cellsFrom_read _ Config.ramBase p.ramSize (Nat.le_add_right _ k) (Nat.add_lt_add_left hk _)).trans ?_
    exact congrArg ramInit (Nat.add_sub_cancel_left ..)
  · have hc := (cellsFrom_range _ _ _ hc).2.1
    rw [Config.romBase] at hc
    rw [Config.ramBase] at hrom
    omega

end

/-- Settles O2: the length decides between the failure and the memory, which is read region by region. -/
theorem imageLoad : Obligations.ImageLoad := by
  intro p image romFill ramInit hp
  refine ⟨rfl, fun hlong => if_pos hlong, fun hfits => ⟨_, if_neg hfits.not_gt, fun k hk => ?image, fun k hk hrom => ?fill,
    fun k => imageMemory_read_data hp image romFill ramInit⟩⟩
  case image =>
    rw [imageMemory_read_program hp image romFill ramInit (hk.trans_le hfits)]
    exact List.getD_eq_getElem image (romFill k) hk
  case fill =>
    rw [imageMemory_read_program hp image romFill ramInit hrom]
    exact List.getD_eq_default image (romFill k) hk

/-! ### The boot (spec 70 R254, 49 R214) -/

section
variable {s t : State}

/-- Reset writes the CPU State and the signals of a step only. -/
theorem resetCpu_frame {loadsSp : Bool} (h : resetCpu loadsSp s = .ok t) : t.mem = s.mem ∧ keepsLoop s t := by
  unfold resetCpu at h
  dsimp only at h
  split at h <;> cases h
  exact ⟨rfl, rfl, rfl, rfl, rfl, rfl⟩

end

/-- Settles O3: `boot` by what the image load and the reset answer; the loop's initialization has no way to fail. -/
theorem bootOrder : Obligations.BootOrder := by
  intro image romFill ramInit s
  refine ⟨fun f hf => ?loadFails, fun m f hm hf => ?resetFails, fun m u hm hu => ?boots⟩
  case loadFails => rw [boot, hf]
  case resetFails =>
    rw [boot, hm]
    simp only [Config.resetLoadsSp, hf]
  case boots =>
    obtain ⟨hmem, hscheme, hbattery, henv, hloop, hparams⟩ := resetCpu_frame hu
    have hnum : u.num = s.num := congrArg Config.Params.num hparams
    refine ⟨initLoop u, ?_, rfl, hmem, hbattery, rfl, rfl, rfl, rfl, rfl, rfl, rfl, rfl, ?_, ?_, ?_⟩
    · rw [boot, hm]
      simp only [Config.resetLoadsSp, hu]
    · exact congrArg (fun e => Environment.getVoltage e 0) henv
    · show u.env.chargingRate u.num (u.env.getVoltage 0) u.battery.capacitance = _
      rw [henv, hnum, hbattery, State.setMem_env, State.setMem_battery]
    · exact congrArg Environment.samplePeriod henv

end Sys2Proof.Machine
end
